-- ==== Sys2Proof/Word.lean ====
section
/-! DEFINITION. The word types of the block: 32-bit registers and command words (R8 XLEN, R100), the
byte lanes of the host bus (R73), and the 12-bit byte offset inside the 4096-byte window (R70). -/

namespace Sys2Proof

/-- A 32-bit register, command word or bus word (R8, R31, R100). -/
abbrev Word := BitVec 32

/-- One byte lane of the host bus (R73). -/
abbrev Byte := BitVec 8

/-- A byte offset inside the register window, 0x000 to 0xFFF (R70). -/
abbrev Offset := BitVec 12

end Sys2Proof
end

