-- ==== Sys2Proof/Syntax.lean ====
section
/-! DEFINITION. The commands of the block as syntax: one constructor of `Instr` per row of the opcode map
(R102), the operand types, and the fields of the one format CMD32 (R100). -/

namespace Sys2Proof

/-- A data register index 0..15 (R101). Addition wraps modulo 16, as register groups do (R16, R101). -/
abbrev Reg := Fin 16

/-- The PID instance the INST field selects (R106). -/
inductive Inst where
  | pid0
  | pid1
  deriving DecidableEq, Repr

/-- The 2-bit mode code (R104): bit 1 is the framing, bit 0 the strategy. -/
structure Mode where
  /-- MODE[1] = 1: direct voltage framing; MODE[1] = 0: current framing (R104). -/
  voltage : Bool
  /-- MODE[0] = 1: closed-loop feedback; MODE[0] = 0: open-loop estimation (R104). -/
  closed : Bool
  deriving DecidableEq, Repr

/-- The eleven commands (R102), each with the operands its row of the opcode map uses. A register operand
that names a group (pair or triple) is the group's base register (R101). -/
inductive Instr where
  /-- SAT16: saturate a value to 16 bits (R130). -/
  | sat16 (rd rs1 : Reg)
  /-- SCALE: saturating multiply-divide: value, multiplier, divisor (R131). -/
  | scale (rd rs1 rs2 rs3 : Reg)
  /-- NORM: normalise a voltage by a divisor (R132). -/
  | norm (rd rs1 rs2 : Reg)
  /-- SINCOS: sine and cosine of an angle into a pair (R142). -/
  | sincos (rd rs1 : Reg)
  /-- POLAR: angle and magnitude to a cartesian pair (R150). -/
  | polar (rd rs1 rs2 : Reg)
  /-- VROT: rotate the pair at rs1 by the angle in rs2 (R151). -/
  | vrot (rd rs1 rs2 : Reg)
  /-- CLARKE: alpha and beta to the three phases (R160). -/
  | clarke (rd rs1 rs2 : Reg)
  /-- SVC: centre the three phases at rs1 in the supply rs2 (R170). -/
  | svc (rd rs1 rs2 : Reg)
  /-- PID: one tick of a PID instance: actual, reference, pair (feed-forward, limit) (R203). -/
  | pid (rd rs1 rs2 rs3 : Reg) (n : Inst)
  /-- EST: one tick of the estimator selector: target pair, measured pair (R231). -/
  | est (rd rs1 rs2 : Reg) (mode : Mode)
  /-- PIPE: one tick of the current-vector pipeline: polar, measured and voltage target pairs (R251). -/
  | pipe (rd rs1 rs2 rs3 : Reg) (mode : Mode)
  deriving DecidableEq, Repr

/-- The names of the rows of the opcode map (R102). -/
inductive Op where
  | sat16 | scale | norm | sincos | polar | vrot | clarke | svc | pid | est | pipe
  deriving DecidableEq, Repr

/-- The row of the opcode map a command belongs to. -/
def Instr.op : Instr → Op
  | .sat16 .. => .sat16
  | .scale .. => .scale
  | .norm .. => .norm
  | .sincos .. => .sincos
  | .polar .. => .polar
  | .vrot .. => .vrot
  | .clarke .. => .clarke
  | .svc .. => .svc
  | .pid .. => .pid
  | .est .. => .est
  | .pipe .. => .pipe

/-- The fields of a CMD32 word (R100), each an unsigned number of its field's width. -/
structure Cmd32 where
  /-- OPC, bits 31:26. -/
  opc : Fin 64
  /-- RD, bits 25:22. -/
  rd : Reg
  /-- RS1, bits 21:18. -/
  rs1 : Reg
  /-- RS2, bits 17:14. -/
  rs2 : Reg
  /-- RS3, bits 13:10. -/
  rs3 : Reg
  /-- MODE, bits 9:8. -/
  mode : Fin 4
  /-- INST, bit 7. -/
  inst : Fin 2
  /-- RSV, bits 6:0, reserved, must be 0. -/
  rsv : Fin 128
  deriving DecidableEq, Repr

end Sys2Proof
end

