-- ==== Sys2Proof/WellFormed.lean ====
section
/-! DEFINITION. Well-formed command words: the opcode map of rule R102 as the spec prints it, one row with
its match and mask, and the rule that a word is a command exactly when it matches a row (R103, R107).

A term of `Instr` has no ill-formed values: its operands are typed by their field's width. What can be
ill-formed is a WORD: an unassigned OPC, a non-zero RSV, or a non-zero value in a field the row marks 0.
`Sys2Proof.decode` finds that out field by field; this file says it by mask and match, and an obligation
says that the two agree. -/

namespace Sys2Proof

/-- One row of the opcode map: a word `w` selects it when `w &&& mask = pattern` (R102). -/
structure OpRow where
  op : Op
  pattern : Word
  mask : Word
  deriving DecidableEq, Repr

/-- The opcode map (R102), its match and mask columns copied from the spec. -/
def opcodeMap : List OpRow :=
  [ ⟨.sat16,  0x04000000, 0xFC03FFFF⟩,
    ⟨.scale,  0x08000000, 0xFC0003FF⟩,
    ⟨.norm,   0x0C000000, 0xFC003FFF⟩,
    ⟨.sincos, 0x10000000, 0xFC03FFFF⟩,
    ⟨.polar,  0x14000000, 0xFC003FFF⟩,
    ⟨.vrot,   0x18000000, 0xFC003FFF⟩,
    ⟨.clarke, 0x1C000000, 0xFC003FFF⟩,
    ⟨.svc,    0x20000000, 0xFC003FFF⟩,
    ⟨.pid,    0x24000000, 0xFC00037F⟩,
    ⟨.est,    0x28000000, 0xFC003CFF⟩,
    ⟨.pipe,   0x2C000000, 0xFC0000FF⟩ ]

/-- The word selects the row (R102). -/
def OpRow.selectedBy (r : OpRow) (w : Word) : Bool := w &&& r.mask == r.pattern

/-- The word is a command: it selects some row of the opcode map (R103). -/
def wordWellFormed (w : Word) : Bool := opcodeMap.any fun r => r.selectedBy w

end Sys2Proof
end

