-- ==== Sys2Proof/Decode.lean ====
section
/-! DEFINITION. Decoding a command word (R100 to R108), total on any word and rejecting by name; after it
the encoder, the byte lanes of a word (R73), and the assembler text of a command (R110). -/

namespace Sys2Proof

/-- Why a word is no command (R103, R107, R274). The spec gives all of them the one cause ILLEGAL, so
which of them is named cannot be observed in the machine. -/
inductive Illegal where
  /-- OPC 0x00 or 0x0C to 0x3F. -/
  | opcode
  /-- RSV is not 0. -/
  | reserved
  /-- RS2 is not 0 where the row marks it 0. -/
  | rs2
  /-- RS3 is not 0 where the row marks it 0. -/
  | rs3
  /-- MODE is not 0 where the row marks it 0. -/
  | mode
  /-- INST is not 0 where the row marks it 0. -/
  | inst
  deriving DecidableEq, Repr

/-- What decoding answers: a command, or the reason there is none. -/
inductive Decoded where
  | command (i : Instr)
  | illegal (why : Illegal)
  deriving DecidableEq, Repr

/-- `v[lo+width-1 : lo]` as an unsigned number (R9). -/
def bitField (v : Word) (lo width : Nat) : Nat := v.toNat / 2 ^ lo % 2 ^ width

/-- The fields of a command word at the bit positions of rule R100. -/
def Cmd32.ofWord (w : Word) : Cmd32 where
  opc := Fin.ofNat 64 (bitField w 26 6)
  rd := Fin.ofNat 16 (bitField w 22 4)
  rs1 := Fin.ofNat 16 (bitField w 18 4)
  rs2 := Fin.ofNat 16 (bitField w 14 4)
  rs3 := Fin.ofNat 16 (bitField w 10 4)
  mode := Fin.ofNat 4 (bitField w 8 2)
  inst := Fin.ofNat 2 (bitField w 7 1)
  rsv := Fin.ofNat 128 (bitField w 0 7)

/-- MODE as a mode code: bit 1 the framing, bit 0 the strategy (R104). -/
def Mode.ofCode (m : Fin 4) : Mode := ⟨m.val / 2 == 1, m.val % 2 == 1⟩

/-- INST as a PID instance (R106). -/
def Inst.ofCode (b : Fin 2) : Inst := if b.val = 0 then .pid0 else .pid1

/-- The fields listed must be 0; the first that is not names the rejection (R102, R107). -/
def requireZero : List (Nat × Illegal) → Instr → Decoded
  | [], i => .command i
  | (v, why) :: rest, i => if v = 0 then requireZero rest i else .illegal why

/-- Decoding by fields: OPC selects the row, and the row's fields marked 0, with RSV, must be 0 (R102,
R103). -/
def Cmd32.decode (c : Cmd32) : Decoded :=
  let rsv := (c.rsv.val, Illegal.reserved)
  let rs2 := (c.rs2.val, Illegal.rs2)
  let rs3 := (c.rs3.val, Illegal.rs3)
  let mode := (c.mode.val, Illegal.mode)
  let inst := (c.inst.val, Illegal.inst)
  match c.opc.val with
  | 0x01 => requireZero [rsv, rs2, rs3, mode, inst] (.sat16 c.rd c.rs1)
  | 0x02 => requireZero [rsv, mode, inst] (.scale c.rd c.rs1 c.rs2 c.rs3)
  | 0x03 => requireZero [rsv, rs3, mode, inst] (.norm c.rd c.rs1 c.rs2)
  | 0x04 => requireZero [rsv, rs2, rs3, mode, inst] (.sincos c.rd c.rs1)
  | 0x05 => requireZero [rsv, rs3, mode, inst] (.polar c.rd c.rs1 c.rs2)
  | 0x06 => requireZero [rsv, rs3, mode, inst] (.vrot c.rd c.rs1 c.rs2)
  | 0x07 => requireZero [rsv, rs3, mode, inst] (.clarke c.rd c.rs1 c.rs2)
  | 0x08 => requireZero [rsv, rs3, mode, inst] (.svc c.rd c.rs1 c.rs2)
  | 0x09 => requireZero [rsv, mode] (.pid c.rd c.rs1 c.rs2 c.rs3 (.ofCode c.inst))
  | 0x0A => requireZero [rsv, rs3, inst] (.est c.rd c.rs1 c.rs2 (.ofCode c.mode))
  | 0x0B => requireZero [rsv, inst] (.pipe c.rd c.rs1 c.rs2 c.rs3 (.ofCode c.mode))
  | _ => .illegal .opcode

/-- The command a word written to CMD stands for, or why it is illegal (R103). -/
def decode (w : Word) : Decoded := (Cmd32.ofWord w).decode

/-- The word of a CMD32's fields (R100). The spec's formula joins the shifted fields with `|`; the fields
do not overlap, so their sum is the same word. -/
def Cmd32.toWord (c : Cmd32) : Word :=
  BitVec.ofNat 32 (c.opc.val * 2 ^ 26 + c.rd.val * 2 ^ 22 + c.rs1.val * 2 ^ 18 + c.rs2.val * 2 ^ 14 +
    c.rs3.val * 2 ^ 10 + c.mode.val * 2 ^ 8 + c.inst.val * 2 ^ 7 + c.rsv.val)

/-- The MODE field of a mode code (R104). -/
def Mode.code (m : Mode) : Fin 4 :=
  match m.voltage, m.closed with
  | false, false => 0
  | false, true => 1
  | true, false => 2
  | true, true => 3

/-- The INST field of an instance (R106). -/
def Inst.code : Inst → Fin 2
  | .pid0 => 0
  | .pid1 => 1

/-- The fields of a command, unused fields and RSV 0 (R102). -/
def Instr.fields : Instr → Cmd32
  | .sat16 rd rs1 => ⟨0x01, rd, rs1, 0, 0, 0, 0, 0⟩
  | .scale rd rs1 rs2 rs3 => ⟨0x02, rd, rs1, rs2, rs3, 0, 0, 0⟩
  | .norm rd rs1 rs2 => ⟨0x03, rd, rs1, rs2, 0, 0, 0, 0⟩
  | .sincos rd rs1 => ⟨0x04, rd, rs1, 0, 0, 0, 0, 0⟩
  | .polar rd rs1 rs2 => ⟨0x05, rd, rs1, rs2, 0, 0, 0, 0⟩
  | .vrot rd rs1 rs2 => ⟨0x06, rd, rs1, rs2, 0, 0, 0, 0⟩
  | .clarke rd rs1 rs2 => ⟨0x07, rd, rs1, rs2, 0, 0, 0, 0⟩
  | .svc rd rs1 rs2 => ⟨0x08, rd, rs1, rs2, 0, 0, 0, 0⟩
  | .pid rd rs1 rs2 rs3 n => ⟨0x09, rd, rs1, rs2, rs3, 0, n.code, 0⟩
  | .est rd rs1 rs2 m => ⟨0x0A, rd, rs1, rs2, 0, m.code, 0, 0⟩
  | .pipe rd rs1 rs2 rs3 m => ⟨0x0B, rd, rs1, rs2, rs3, m.code, 0, 0⟩

/-- The command word of a command (R100, R102). -/
def encode (i : Instr) : Word := i.fields.toWord

/-- The four byte lanes of a word, lane 0 (the lowest offset) first: little-endian (R73). -/
def wordLanes (w : Word) : List Byte :=
  [w.extractLsb' 0 8, w.extractLsb' 8 8, w.extractLsb' 16 8, w.extractLsb' 24 8]

/-- The word that byte lanes carry, lane 0 first; a missing lane is 0 (R73). -/
def ofLanes (bs : List Byte) : Word :=
  (bs.getD 3 0 ++ bs.getD 2 0 ++ bs.getD 1 0 ++ bs.getD 0 0 : BitVec 32)

/-- The command word of a row of spec/opcode_table.json: the row's low `nbits` bits, the rest 0. -/
def tableWord (nbits w : Nat) : Word := BitVec.ofNat 32 (w % 2 ^ nbits)

/-- The command this decoder reads from a table row's word, laid out in the window's byte lanes. -/
def decodeTableWord (nbits w : Nat) : Option Instr :=
  match decode (ofLanes (wordLanes (tableWord nbits w))) with
  | .command i => some i
  | .illegal _ => none

/-- The pseudo-instructions of rule R111, each an alias of one command. -/
def Instr.estOl (rd rs1 rs2 : Reg) : Instr := .est rd rs1 rs2 ⟨false, false⟩
/-- `est.cl` (R111). -/
def Instr.estCl (rd rs1 rs2 : Reg) : Instr := .est rd rs1 rs2 ⟨false, true⟩
/-- `pipe.ol` (R111). -/
def Instr.pipeOl (rd rs1 rs2 rs3 : Reg) : Instr := .pipe rd rs1 rs2 rs3 ⟨false, false⟩
/-- `pipe.cl` (R111). -/
def Instr.pipeCl (rd rs1 rs2 rs3 : Reg) : Instr := .pipe rd rs1 rs2 rs3 ⟨false, true⟩
/-- `pipe.v` (R111). -/
def Instr.pipeV (rd rs1 rs2 rs3 : Reg) : Instr := .pipe rd rs1 rs2 rs3 ⟨true, false⟩
/-- `pid.0` (R111). -/
def Instr.pidZero (rd rs1 rs2 rs3 : Reg) : Instr := .pid rd rs1 rs2 rs3 .pid0
/-- `pid.1` (R111). -/
def Instr.pidOne (rd rs1 rs2 rs3 : Reg) : Instr := .pid rd rs1 rs2 rs3 .pid1

/-- The assembler name of a data register, `dN` (R110). -/
def Reg.asm (r : Reg) : String :=
  ["d0", "d1", "d2", "d3", "d4", "d5", "d6", "d7", "d8", "d9", "d10", "d11", "d12", "d13", "d14",
    "d15"].getD r.val ""

/-- Register operands separated by commas (R110). -/
def asmRegs : List Reg → String
  | [] => ""
  | [r] => r.asm
  | r :: rest => r.asm ++ ", " ++ asmRegs rest

/-- The `mode=N` operand (R110). -/
def Mode.asm (m : Mode) : String := ["mode=0", "mode=1", "mode=2", "mode=3"].getD m.code.val ""

/-- The `inst=N` operand (R110). -/
def Inst.asm : Inst → String
  | .pid0 => "inst=0"
  | .pid1 => "inst=1"

/-- The assembler text of a command (R110). -/
def Instr.asm : Instr → String
  | .sat16 rd rs1 => "sat16 " ++ asmRegs [rd, rs1]
  | .scale rd rs1 rs2 rs3 => "scale " ++ asmRegs [rd, rs1, rs2, rs3]
  | .norm rd rs1 rs2 => "norm " ++ asmRegs [rd, rs1, rs2]
  | .sincos rd rs1 => "sincos " ++ asmRegs [rd, rs1]
  | .polar rd rs1 rs2 => "polar " ++ asmRegs [rd, rs1, rs2]
  | .vrot rd rs1 rs2 => "vrot " ++ asmRegs [rd, rs1, rs2]
  | .clarke rd rs1 rs2 => "clarke " ++ asmRegs [rd, rs1, rs2]
  | .svc rd rs1 rs2 => "svc " ++ asmRegs [rd, rs1, rs2]
  | .pid rd rs1 rs2 rs3 n => "pid " ++ asmRegs [rd, rs1, rs2, rs3] ++ ", " ++ n.asm
  | .est rd rs1 rs2 m => "est " ++ asmRegs [rd, rs1, rs2] ++ ", " ++ m.asm
  | .pipe rd rs1 rs2 rs3 m => "pipe " ++ asmRegs [rd, rs1, rs2, rs3] ++ ", " ++ m.asm

end Sys2Proof
end

