-- ==== Sys2Proof/Config.lean ====
section
/-! DEFINITION. The implementation parameters of rule R8, each at the value this hardware takes, and the
two OPEN parameters as opaque constants. -/

namespace Sys2Proof.Config

/-- NREG: number of data registers D0..D15 (R8, R31). -/
def nreg : Nat := 16

/-- XLEN: width of each data and configuration register (R8). -/
def xlen : Nat := 32

/-- QSHIFT: the normalisation shift, `normalized = (voltage_mV << 15) / max_supply_mV` (R8, R132). -/
def qShift : Nat := 15

/-- NARROW: width of the normalised output (R8). -/
def narrow : Nat := 16

/-- SAT_SYMMETRIC: saturation leaves out the minimum integer (R8, R15); true in this hardware (I15). -/
def satSymmetric : Bool := true

/-- LUT_STEPS: table steps per full turn (R8, R141). -/
def lutSteps : Nat := 1024

/-- LUT_AMP: amplitude of the sine table (R8, R140). -/
def lutAmp : Nat := 32767

/-- K_SQRT3_2: `round(sqrt(3)/2 * 2^15)` (R8, R160). -/
def kSqrt3Half : Int := 28378

/-- GAIN_SCALE: gain unity (R8, R201). -/
def gainScale : Int := 1000

/-- RES_SCALE: divisor of the open-loop product (R8, R230). -/
def resScale : Int := 1000

/-- N_PID: number of PID instances (R8, R50). -/
def nPid : Nat := 2

/-- WINDOW: size of the host register window in bytes (R8, R70). -/
def window : Nat := 4096

/-- CMD_LATENCY: time from a CMD write to completion. OPEN in the spec (R8, I13): no value is chosen, and
no rule depends on it (R316). -/
opaque cmdLatency : Nat

/-- FPML_BASE: platform base address of the window. OPEN in the spec (R70, I14): no value is chosen. -/
opaque fpmlBase : Nat

end Sys2Proof.Config
end

