-- ==== Sys2Proof/Machine/State.lean ====
section
/-! DEFINITION. The state of the block as plain data: every register rule R30 lists, the reset input (R300),
and the model's own record of the host, whose accesses drive the block (assumption log 1). ID, PARAM, the
reserved words, the reserved STATUS bits and the sine table are constants (R44, R45, R53, R76) and need no
storage (log 9). There is no memory (R70). -/

namespace Sys2Proof.Machine

/-- The causes a faulting command reports (R270). -/
inductive Cause where
  /-- The command word matches no row of the opcode map (R274). -/
  | illegal
  /-- A limit or an integral bound in use is negative (R272). -/
  | precond
  /-- A divisor is zero (R271). -/
  | div0
  /-- A PID error does not fit in 32 bits (R273). -/
  | range
  deriving DecidableEq, Repr

/-- STATUS as the fields of rule R35. The reserved bits read 0 and are not stored. -/
structure Status where
  /-- Bit 0: a command faulted; sticky. -/
  fault : Bool
  /-- Bits 7:4: the code of the fault that set FAULT, 0 when FAULT = 0. -/
  cause : BitVec 4
  /-- Bits 31:16: commands completed without fault, modulo 2^16 (R37). -/
  cmdCnt : BitVec 16
  deriving DecidableEq, Repr

/-- One PID instance: five configuration and two persistent registers (R50). -/
structure Pid where
  /-- KP, proportional gain, unity 1000. -/
  kp : Word
  /-- KI, integral gain, unity 1000. -/
  ki : Word
  /-- KD, derivative gain, unity 1000. -/
  kd : Word
  /-- KFF, feed-forward gain, unity 1000. -/
  kff : Word
  /-- ICLAMP, anti-windup bound of the integral accumulator. -/
  iclamp : Word
  /-- INTEG, the integral accumulator, persistent, read-only to the host (R51). -/
  integ : Word
  /-- PREV, the previous error, persistent, read-only to the host (R51). -/
  prev : Word
  deriving DecidableEq, Repr

/-- One action of the host, the block's only other agent (R79, R300). -/
inductive HostEvent where
  /-- A read of `bytes` bytes at an offset of the window (R17, R74). -/
  | read (off : Offset) (bytes : Nat)
  /-- A write of `bytes` bytes at an offset of the window; `v` is the word on the bus (R17, R74). -/
  | write (off : Offset) (bytes : Nat) (v : Word)
  /-- The reset input driven to a level, `true` asserted (R300). -/
  | resetLine (level : Bool)
  deriving DecidableEq, Repr

/-- What the host got back from its last action. Nothing in the block reads it; it makes the outcome of a
command explicit (R280) and holds the value a read returns (R77). -/
inductive Reply where
  /-- No access since reset. -/
  | none
  /-- A read returned this word. -/
  | value (w : Word)
  /-- A write to a register other than CMD completed. -/
  | written
  /-- The command completed without fault (R37). -/
  | completed
  /-- The command faulted, with this code in CAUSE (R276). -/
  | faulted (cause : BitVec 4)
  /-- The command was dropped because FAULT = 1 (R278). -/
  | dropped
  deriving DecidableEq, Repr

/-- The state (R30). -/
structure State where
  /-- D0..D15 (R31). -/
  d : Vector Word 16
  /-- CMD, the last word written to it (R34). -/
  cmd : Word
  /-- STATUS (R35). -/
  status : Status
  /-- FAULTCMD, the word of the last command that faulted (R38). -/
  faultCmd : Word
  /-- VSUP_MV, present supply voltage in mV (R40). -/
  vsupMv : Word
  /-- VMAX_MV, maximum sensed supply voltage in mV (R40). -/
  vmaxMv : Word
  /-- VSUP_NORM, normalised supply reading, read by no command (R40, R42). -/
  vsupNorm : Word
  /-- RES_MOHM, motor resistance in milliohms (R41). -/
  resMohm : Word
  /-- PID instance 0 (R50). -/
  pid0 : Pid
  /-- PID instance 1 (R50). -/
  pid1 : Pid
  /-- The reset input is asserted (R300). -/
  inReset : Bool
  /-- MODEL'S OWN (log 1): the host's actions not yet performed, oldest first. -/
  bus : List HostEvent
  /-- MODEL'S OWN (log 1): what the host got back from its last action. -/
  reply : Reply
  deriving DecidableEq, Repr

/-- Why a step stops with a fault: BUSERR, an error of the host's access and not of the block (R74, R75,
R281). Each is raised by a host access in Machine/HostPort.lean, and no command raises one. SAFE: the model
stops where the block would go on unchanged (log 4). -/
inductive Fault where
  /-- The access is not 32 bits wide (R74). Safe. -/
  | busErrWidth
  /-- The offset is not a multiple of 4 (R74). Safe. -/
  | busErrAlign
  /-- The offset is unmapped, 0x0A4 to 0xFFC (R75). Safe. -/
  | busErrUnmapped
  deriving DecidableEq, Repr

/-- Why a step has no meaning. -/
inductive Refusal where
  /-- An instruction without a meaning yet, by its mnemonic; raised by `exec` only. No instruction is left
  without a meaning. Safe. -/
  | notModelled (mnemonic : String)
  /-- A host access while reset is asserted has no defined effect (R302); raised by the host port. Safe. -/
  | accessInReset
  deriving DecidableEq, Repr

/-- Reset values of STATUS (R55). -/
def Status.reset : Status := ⟨false, 0, 0⟩

/-- Reset values of a PID instance (R55). -/
def Pid.reset : Pid := ⟨0, 0, 0, 0, 0, 0, 0⟩

/-- The machine right after reset (R55, R300): every register 0, the reset input released, and no host
action pending. -/
def State.reset : State where
  d := Vector.replicate 16 0
  cmd := 0
  status := Status.reset
  faultCmd := 0
  vsupMv := 0
  vmaxMv := 0
  vsupNorm := 0
  resMohm := 0
  pid0 := Pid.reset
  pid1 := Pid.reset
  inReset := false
  bus := []
  reply := .none

end Sys2Proof.Machine
end

