-- ==== Sys2Proof/Machine/Arith.lean ====
section
/-! DEFINITION. The arithmetic primitives of 00_scope.md: exact integers, narrowed only by the functions named
here (R10 to R15), and the shared normalisation (R133). -/

namespace Sys2Proof.Machine

/-- The integer quotient rounded toward zero (R12). Every rule checks for a zero divisor first. -/
def tdiv (a b : Int) : Int := Int.tdiv a b

/-- Arithmetic right shift: the floor of `a / 2^n` (R13). -/
def asr (a : Int) (n : Nat) : Int := a / 2 ^ n

/-- Exact left shift, `a * 2^n` (R13). -/
def shl (a : Int) (n : Nat) : Int := a * 2 ^ n

/-- `clamp(v, lo, hi)`, for `lo <= hi` (R14). -/
def clamp (v lo hi : Int) : Int := if v < lo then lo else if hi < v then hi else v

/-- The least of three integers (R14). -/
def min3 (a b c : Int) : Int := min a (min b c)

/-- The greatest of three integers (R14). -/
def max3 (a b c : Int) : Int := max a (max b c)

/-- The greatest integer of a signed width (R15). -/
def satMax (width : Nat) : Int := 2 ^ (width - 1) - 1

/-- MIN16 and MIN32 of rule R15: the negated maximum when saturation is symmetric, else the minimum of the
type. -/
def satMin (width : Nat) : Int :=
  if Config.satSymmetric then -(2 ^ (width - 1) - 1) else -(2 ^ (width - 1))

/-- Saturation to the narrow output width (R15). -/
def sat16 (v : Int) : Int := clamp v (satMin Config.narrow) (satMax Config.narrow)

/-- Saturation to the register width (R15). -/
def sat32 (v : Int) : Int := clamp v (satMin Config.xlen) (satMax Config.xlen)

/-- The value fits a signed 32-bit register (R16, R202). -/
def fits32 (v : Int) : Bool := decide (-(2 ^ 31) ≤ v) && decide (v ≤ 2 ^ 31 - 1)

/-- The 32-bit two's-complement pattern of an integer (R11). -/
def bits32 (v : Int) : Word := BitVec.ofInt 32 v

/-- `uint16`: bits 15:0 as an unsigned number (R11). -/
def uint16 (w : Word) : Nat := w.toNat % 2 ^ 16

/-- `int16`: bits 15:0 as a signed number, the angle a register holds (R11, R20). -/
def int16 (w : Word) : Int := (w.extractLsb' 0 16).toInt

/-- The shared normalisation of NORM and PIPE, for `d ≠ 0` (R133). -/
def normq (v d : Int) : Int := sat16 (tdiv (shl v Config.qShift) d)

end Sys2Proof.Machine
end

