-- ==== Sys2Proof/Machine/Flags.lean ====
section
/-! DEFINITION. The STATUS register, the block's only flags (R33): its word as the host reads it, and the
three changes the rules make to it. No command has an arithmetic flag. -/

namespace Sys2Proof.Machine

/-- The code of a cause in STATUS.CAUSE (R270). -/
def Cause.code : Cause → BitVec 4
  | .illegal => 1
  | .precond => 2
  | .div0 => 3
  | .range => 4

/-- STATUS as a word: CMDCNT in 31:16, CAUSE in 7:4, FAULT in 0, the reserved bits 0 (R35). -/
def Status.word (t : Status) : Word :=
  (t.cmdCnt ++ (0 : BitVec 8) ++ t.cause ++ (0 : BitVec 3) ++ BitVec.ofBool t.fault : BitVec 32)

/-- A command faulted with a cause: FAULT is set and CAUSE holds its code (R276). -/
def Status.raise (t : Status) (c : Cause) : Status := { t with fault := true, cause := c.code }

/-- The fault is cleared: FAULT and CAUSE become 0 (R36). -/
def Status.clear (t : Status) : Status := { t with fault := false, cause := 0 }

/-- A command completed without fault: CMDCNT + 1 modulo 2^16 (R37). -/
def Status.count (t : Status) : Status := { t with cmdCnt := t.cmdCnt + 1 }

end Sys2Proof.Machine
end

