-- ==== Sys2Proof/Machine/Ops.lean ====
section
/-! DEFINITION. The named operations on registers (R16), taking a fault and returning from one (R276, R279),
finishing a command (R276), and reset (R300). -/

namespace Sys2Proof.Machine

/-- `x[i]`: the signed value of data register D_i (R16). -/
def State.x (s : State) (i : Reg) : Int := s.d[i].toInt

/-- `x[i] <- v`: writes the pattern of `v` to D_i (R16). -/
def State.setX (s : State) (i : Reg) (v : Int) : State :=
  { s with d := s.d.set i.val (bits32 v) i.isLt }

/-- `pid[n]` (R16, R50). -/
def State.pid (s : State) : Inst → Pid
  | .pid0 => s.pid0
  | .pid1 => s.pid1

/-- Writes the registers of PID instance `n`. -/
def State.setPid (s : State) (n : Inst) (p : Pid) : State :=
  match n with
  | .pid0 => { s with pid0 := p }
  | .pid1 => { s with pid1 := p }

/-- TAKING A FAULT: STATUS.FAULT and CAUSE are set and FAULTCMD takes the command word, which CMD holds;
nothing else changes (R276, R277). -/
def State.takeFault (s : State) (c : Cause) : State :=
  { s with status := s.status.raise c, faultCmd := s.cmd }

/-- RETURN FROM A FAULT: FAULT and CAUSE are cleared, FAULTCMD is left (R36, R279). -/
def State.clearFault (s : State) : State := { s with status := s.status.clear }

/-- A command completed: CMDCNT counts it (R37, R276). -/
def State.countCommand (s : State) : State := { s with status := s.status.count }

/-- Ends a command whose reads and checks were made in `s` (R18, R276): if they all passed, `r` is the state
with every write made, and the command is counted; if one raised, `s` takes the fault and nothing else
changes. Either way the machine goes on. -/
def finish (s : State) (r : Except Cause State) : Host.Outcome State Fault Refusal :=
  match r with
  | .ok t => .next t.countCommand
  | .error c => .next (s.takeFault c)

/-- Every register at its reset value (R55, R300); the reset input and the host's pending actions are not
the block's registers and stay. -/
def State.resetRegisters (s : State) : State :=
  { State.reset with inReset := s.inReset, bus := s.bus }

/-- The reset input driven to a level (R300): asserting it, and releasing it when it was asserted, gives
every register its reset value; driving it low when it was low is no event (log 6). -/
def State.driveReset (s : State) (level : Bool) : State :=
  if level || s.inReset then { s.resetRegisters with inReset := level } else s

end Sys2Proof.Machine
end

