-- ==== Sys2Proof/Machine/Operands.lean ====
section
/-! DEFINITION. The operand forms: single registers, pairs and triples of consecutive registers modulo 16 (R16,
R22, R101), and angles (R20). -/

namespace Sys2Proof.Machine

/-- The AxisPair or PolarTarget at `r`: components 0 and 1 (R22, R23). -/
def State.pair (s : State) (r : Reg) : Int × Int := (s.x r, s.x (r + 1))

/-- The triple at `r` (R101). -/
def State.triple (s : State) (r : Reg) : Int × Int × Int := (s.x r, s.x (r + 1), s.x (r + 2))

/-- Writes the pair at `r` (R101). -/
def State.setPair (s : State) (r : Reg) (v0 v1 : Int) : State := (s.setX r v0).setX (r + 1) v1

/-- Writes the triple at `r` (R101). -/
def State.setTriple (s : State) (r : Reg) (v0 v1 v2 : Int) : State :=
  ((s.setX r v0).setX (r + 1) v1).setX (r + 2) v2

/-- The table index of the angle in D_r (R20, R142). -/
def State.angle (s : State) (r : Reg) : Nat := angleIndex s.d[r]

end Sys2Proof.Machine
end

