-- ==== Sys2Proof/Machine/PidControl.lean ====
section
/-! DEFINITION. The PID-with-feed-forward controller: the shared functions of rules R201 and R202, and the
PID command (R203). -/

namespace Sys2Proof.Machine

/-- What one evaluation of a PID instance computes, before anything is written (R201). -/
structure PidTick where
  /-- The clamped output. -/
  out : Int
  /-- The raw error `e`. -/
  err : Int
  /-- The integral accumulator after this tick's addition and clamp. -/
  iacc : Int
  deriving DecidableEq, Repr

/-- `pid_eval` (R201): exact, each term rescaled separately toward zero. -/
def pidEval (p : Pid) (act ref ff limit : Int) : PidTick :=
  let e := ref - act
  let iacc := clamp (p.integ.toInt + e) (-p.iclamp.toInt) p.iclamp.toInt
  let pTerm := tdiv (p.kp.toInt * e) Config.gainScale
  let iTerm := tdiv (p.ki.toInt * iacc) Config.gainScale
  let dTerm := tdiv (p.kd.toInt * (e - p.prev.toInt)) Config.gainScale
  let fTerm := tdiv (p.kff.toInt * ff) Config.gainScale
  { out := clamp (pTerm + iTerm + dTerm + fTerm) (-limit) limit, err := e, iacc := iacc }

/-- `pid_check` passes: neither the limit nor the integral bound is negative (R202). -/
def pidCheck (p : Pid) (limit : Int) : Bool := decide (0 ≤ limit) && decide (0 ≤ p.iclamp.toInt)

/-- `pid_commit`: INTEG and PREV take the tick's accumulator and error (R202). -/
def State.pidCommit (s : State) (n : Inst) (t : PidTick) : State :=
  s.setPid n { s.pid n with integ := bits32 t.iacc, prev := bits32 t.err }

/-- PID (R203): PRECOND before RANGE, then the output, the error and the instance's state are written. -/
def execPid (rd rs1 rs2 rs3 : Reg) (n : Inst) (s : State) : Host.Outcome State Fault Refusal :=
  let limit := s.x (rs3 + 1)
  let t := pidEval (s.pid n) (s.x rs1) (s.x rs2) (s.x rs3) limit
  finish s <|
    if !pidCheck (s.pid n) limit then .error .precond
    else if !fits32 t.err then .error .range
    else .ok ((s.setPair rd t.out t.err).pidCommit n t)

end Sys2Proof.Machine
end

