-- ==== Sys2Proof/Machine/Estimator.lean ====
section
/-! DEFINITION. The current/voltage estimator selector: the shared `est_core` (R230) and the EST command
(R231). -/

namespace Sys2Proof.Machine

/-- What `est_core` returns: a voltage pair and the PID commits still to be performed (R230). -/
structure Estimate where
  v0 : Int
  v1 : Int
  commits : List (Inst × PidTick)
  deriving DecidableEq, Repr

/-- One component of the open-loop estimate, mA times milliohm over 1000, in mV (R230). -/
def openLoop (target resistance : Int) : Int := sat32 (tdiv (target * resistance) Config.resScale)

/-- Both instances pass `pid_check` with VSUP_MV as the limit (R230, R272). -/
def State.feedbackReady (s : State) : Bool :=
  pidCheck s.pid0 s.vsupMv.toInt && pidCheck s.pid1 s.vsupMv.toInt

/-- `est_core` (R230): open loop, or one tick of each PID instance with feed-forward 0 and limit VSUP_MV. -/
def estCore (closed : Bool) (t0 t1 m0 m1 : Int) (s : State) : Except Cause Estimate :=
  if closed then
    let limit := s.vsupMv.toInt
    let a := pidEval s.pid0 m0 t0 0 limit
    let b := pidEval s.pid1 m1 t1 0 limit
    if !s.feedbackReady then .error .precond
    else if !(fits32 a.err && fits32 b.err) then .error .range
    else .ok ⟨a.out, b.out, [(.pid0, a), (.pid1, b)]⟩
  else
    .ok ⟨openLoop t0 s.resMohm.toInt, openLoop t1 s.resMohm.toInt, []⟩

/-- Performs the commits a command was given, after all its checks passed (R230). -/
def State.performCommits (s : State) : List (Inst × PidTick) → State
  | [] => s
  | (n, t) :: rest => (s.pidCommit n t).performCommits rest

/-- EST (R231): only MODE[0] is read. -/
def execEst (rd rs1 rs2 : Reg) (mode : Mode) (s : State) : Host.Outcome State Fault Refusal :=
  finish s <|
    (estCore mode.closed (s.x rs1) (s.x (rs1 + 1)) (s.x rs2) (s.x (rs2 + 1)) s).map fun v =>
      (s.setPair rd v.v0 v.v1).performCommits v.commits

end Sys2Proof.Machine
end

