-- ==== Sys2Proof/Machine/Phases.lean ====
section
/-! DEFINITION. The family of the three-phase kernels: CLARKE and SVC (40_fixed_point_math.md, 4 and 5). -/

namespace Sys2Proof.Machine

/-- CLARKE (R160): with `t` = beta sqrt(3)/2 and `h` = alpha/2 rounded down. -/
def execClarke (rd rs1 rs2 : Reg) (s : State) : Host.Outcome State Fault Refusal :=
  let al := s.x rs1
  let t := asr (Config.kSqrt3Half * s.x rs2) 15
  let h := asr al 1
  finish s (.ok (s.setTriple rd (sat32 al) (sat32 (t - h)) (sat32 (-t - h))))

/-- The centering offset of SVC (R170). -/
def centerOffset (p0 p1 p2 supply : Int) : Int :=
  tdiv ((supply - max3 p0 p1 p2) - min3 p0 p1 p2) 2

/-- SVC (R170). -/
def execSvc (rd rs1 rs2 : Reg) (s : State) : Host.Outcome State Fault Refusal :=
  let p0 := s.x rs1
  let p1 := s.x (rs1 + 1)
  let p2 := s.x (rs1 + 2)
  let off := centerOffset p0 p1 p2 (s.x rs2)
  finish s (.ok (s.setTriple rd (sat32 (p0 + off)) (sat32 (p1 + off)) (sat32 (p2 + off))))

end Sys2Proof.Machine
end

