-- ==== Sys2Proof/Machine/Rotation.lean ====
section
/-! DEFINITION. The family of sine and cosine lookup and two-dimensional rotation: SINCOS, POLAR, VROT
(40_fixed_point_math.md, 2 and 3). -/

namespace Sys2Proof.Machine

/-- The cartesian pair of a magnitude at a table index: (m sin, m cos) rescaled from Q15 (R150); PIPE uses
it too (R251). -/
def polarPair (i : Nat) (m : Int) : Int × Int :=
  (sat32 (asr (m * lsin i) 15), sat32 (asr (m * lcos i) 15))

/-- The pair (a0, a1) rotated by a table index (R151). -/
def rotatePair (i : Nat) (a0 a1 : Int) : Int × Int :=
  (sat32 (asr (a0 * lcos i + a1 * lsin i) 15), sat32 (asr (a1 * lcos i - a0 * lsin i) 15))

/-- SINCOS (R142). -/
def execSincos (rd rs1 : Reg) (s : State) : Host.Outcome State Fault Refusal :=
  let i := s.angle rs1
  finish s (.ok (s.setPair rd (lsin i) (lcos i)))

/-- POLAR (R150). -/
def execPolar (rd rs1 rs2 : Reg) (s : State) : Host.Outcome State Fault Refusal :=
  let v := polarPair (s.angle rs1) (s.x rs2)
  finish s (.ok (s.setPair rd v.1 v.2))

/-- VROT (R151). -/
def execVrot (rd rs1 rs2 : Reg) (s : State) : Host.Outcome State Fault Refusal :=
  let v := rotatePair (s.angle rs2) (s.x rs1) (s.x (rs1 + 1))
  finish s (.ok (s.setPair rd v.1 v.2))

end Sys2Proof.Machine
end

