-- ==== Sys2Proof/Machine/Pipeline.lean ====
section
/-! DEFINITION. The current-vector pipeline, PIPE (R251). -/

namespace Sys2Proof.Machine

/-- The bypass path of PIPE: the voltage target normalised by VMAX_MV (R251). -/
def pipeVoltage (rd rs3 : Reg) (s : State) : Except Cause State :=
  let vmax := s.vmaxMv.toInt
  if vmax = 0 then .error .div0
  else .ok (s.setPair rd (normq (s.x rs3) vmax) (normq (s.x (rs3 + 1)) vmax))

/-- The current path of PIPE: rotate the polar target, estimate, normalise. The checks come in the order
PRECOND, DIV0, RANGE (R251, R275). -/
def pipeCurrent (rd rs1 rs2 : Reg) (closed : Bool) (s : State) : Except Cause State :=
  let vmax := s.vmaxMv.toInt
  let c := polarPair (s.angle rs1) (s.x (rs1 + 1))
  if closed && !s.feedbackReady then .error .precond
  else if vmax = 0 then .error .div0
  else
    (estCore closed c.1 c.2 (s.x rs2) (s.x (rs2 + 1)) s).map fun v =>
      (s.setPair rd (normq v.v0 vmax) (normq v.v1 vmax)).performCommits v.commits

/-- PIPE (R251): MODE[1] selects the bypass, MODE[0] the strategy of the current path (R105). -/
def execPipe (rd rs1 rs2 rs3 : Reg) (mode : Mode) (s : State) : Host.Outcome State Fault Refusal :=
  finish s (if mode.voltage then pipeVoltage rd rs3 s else pipeCurrent rd rs1 rs2 mode.closed s)

end Sys2Proof.Machine
end

