-- ==== Sys2Proof/Machine/Scaling.lean ====
section
/-! DEFINITION. The family of saturating scale and normalise: SAT16, SCALE, NORM (40_fixed_point_math.md, 1). -/

namespace Sys2Proof.Machine

/-- SAT16 (R130). -/
def execSat16 (rd rs1 : Reg) (s : State) : Host.Outcome State Fault Refusal :=
  finish s (.ok (s.setX rd (sat16 (s.x rs1))))

/-- SCALE (R131). -/
def execScale (rd rs1 rs2 rs3 : Reg) (s : State) : Host.Outcome State Fault Refusal :=
  finish s <|
    if s.x rs3 = 0 then .error .div0
    else .ok (s.setX rd (sat16 (tdiv (s.x rs1 * s.x rs2) (s.x rs3))))

/-- NORM (R132). -/
def execNorm (rd rs1 rs2 : Reg) (s : State) : Host.Outcome State Fault Refusal :=
  finish s <|
    if s.x rs2 = 0 then .error .div0
    else .ok (s.setX rd (normq (s.x rs1) (s.x rs2)))

end Sys2Proof.Machine
end

