-- ==== Sys2Proof/Machine/Dispatch.lean ====
section
/-! DEFINITION. The meaning of every command, one arm per constructor of `Instr` (R102, R276). -/

namespace Sys2Proof.Machine

def exec (i : Instr) (s : State) : Host.Outcome State Fault Refusal :=
  match i with
  | .sat16 rd rs1 => Sys2Proof.Machine.execSat16 rd rs1 s
  | .scale rd rs1 rs2 rs3 => Sys2Proof.Machine.execScale rd rs1 rs2 rs3 s
  | .norm rd rs1 rs2 => Sys2Proof.Machine.execNorm rd rs1 rs2 s
  | .sincos rd rs1 => Sys2Proof.Machine.execSincos rd rs1 s
  | .polar rd rs1 rs2 => Sys2Proof.Machine.execPolar rd rs1 rs2 s
  | .vrot rd rs1 rs2 => Sys2Proof.Machine.execVrot rd rs1 rs2 s
  | .clarke rd rs1 rs2 => Sys2Proof.Machine.execClarke rd rs1 rs2 s
  | .svc rd rs1 rs2 => Sys2Proof.Machine.execSvc rd rs1 rs2 s
  | .pid rd rs1 rs2 rs3 n => Sys2Proof.Machine.execPid rd rs1 rs2 rs3 n s
  | .est rd rs1 rs2 mode => Sys2Proof.Machine.execEst rd rs1 rs2 mode s
  | .pipe rd rs1 rs2 rs3 mode => Sys2Proof.Machine.execPipe rd rs1 rs2 rs3 mode s

end Sys2Proof.Machine
end

