-- ==== Sys2Proof/Machine/Command.lean ====
section
/-! DEFINITION. The whole effect of a host write to CMD, as one atomic step (R34, R276). -/

namespace Sys2Proof.Machine

/-- CMD takes the word written (R34). -/
def State.setCmd (s : State) (w : Word) : State := { s with cmd := w }

/-- A word that decodes as no command raises ILLEGAL; a command is executed (R103, R276). -/
def runDecoded (r : Decoded) (s : State) : Host.Outcome State Fault Refusal :=
  match r with
  | .illegal _ => finish s (.error .illegal)
  | .command i => exec i s

/-- What the host learns of a command that was not dropped: whether it completed or faulted (R280). -/
def State.commandReply (t : State) : State :=
  { t with reply := if t.status.fault then .faulted t.status.cause else .completed }

/-- Records the host's reply in the next state, where there is one. -/
def answerWith (f : State → State) (o : Host.Outcome State Fault Refusal) :
    Host.Outcome State Fault Refusal :=
  match o with
  | .next t => .next (f t)
  | .fault e => .fault e
  | .refused e => .refused e

/-- `MemWrite(0x040, 4, w)` (R276): CMD takes the word; while FAULT = 1 the command is dropped and nothing
else changes (R278); otherwise it is decoded and executed. -/
def runCommand (w : Word) (s : State) : Host.Outcome State Fault Refusal :=
  if s.status.fault then .next { s.setCmd w with reply := .dropped }
  else answerWith State.commandReply (runDecoded (decode w) (s.setCmd w))

end Sys2Proof.Machine
end

