-- ==== Sys2Proof/Machine/HostPort.lean ====
section
/-! DEFINITION. The host's side: the register window (R70 to R77), the access checks that answer BUSERR (R74,
R75), and what each host action does. -/

namespace Sys2Proof.Machine

/-- The registers of a PID instance that the window shows (R50). -/
inductive PidField where
  | kp | ki | kd | kff | iclamp | integ | prev
  deriving DecidableEq, Repr

/-- What stands at a mapped offset of the window (R71). -/
inductive WindowReg where
  | data (i : Reg)
  | cmd
  | status
  | faultCmd
  | id
  | vsupMv
  | vmaxMv
  | vsupNorm
  | resMohm
  | pid (n : Inst) (f : PidField)
  /-- The reserved words 0x07C and 0x09C (R76). -/
  | reserved (n : Inst)
  | param
  deriving DecidableEq, Repr

/-- The value ID always reads, "FPML" (R44). -/
def idWord : Word := 0x46504D4C

/-- The value PARAM always reads (R45). -/
def paramWord : Word := 0x03E8010A

/-- The eight words of a PID instance, by their place from its base (R50). -/
def pidWindow (n : Inst) (k : Nat) : WindowReg :=
  match k with
  | 0 => .pid n .kp
  | 1 => .pid n .ki
  | 2 => .pid n .kd
  | 3 => .pid n .kff
  | 4 => .pid n .iclamp
  | 5 => .pid n .integ
  | 6 => .pid n .prev
  | _ => .reserved n

/-- The window's map by word number, the offset over 4 (R71); `none` is unmapped (R75). -/
def windowMap (k : Nat) : Option WindowReg :=
  if k < 16 then some (.data (Fin.ofNat 16 k))
  else if k < 24 then
    match k with
    | 16 => some .cmd
    | 17 => some .status
    | 18 => some .faultCmd
    | 19 => some .id
    | 20 => some .vsupMv
    | 21 => some .vmaxMv
    | 22 => some .vsupNorm
    | _ => some .resMohm
  else if k < 32 then some (pidWindow .pid0 (k - 24))
  else if k < 40 then some (pidWindow .pid1 (k - 32))
  else if k = 40 then some .param
  else none

/-- The register an access reaches, or the BUSERR that answers it: only aligned 32-bit accesses to mapped
offsets are served (R74, R75). -/
def target (off : Offset) (bytes : Nat) : Except Fault WindowReg :=
  if bytes ≠ 4 then .error .busErrWidth
  else if off.toNat % 4 ≠ 0 then .error .busErrAlign
  else
    match windowMap (off.toNat / 4) with
    | some r => .ok r
    | none => .error .busErrUnmapped

/-- A register of a PID instance (R50). -/
def Pid.get (p : Pid) : PidField → Word
  | .kp => p.kp
  | .ki => p.ki
  | .kd => p.kd
  | .kff => p.kff
  | .iclamp => p.iclamp
  | .integ => p.integ
  | .prev => p.prev

/-- A host write to a register of a PID instance: INTEG and PREV are read-only (R51, R76). -/
def Pid.hostWrite (p : Pid) (f : PidField) (v : Word) : Pid :=
  match f with
  | .kp => { p with kp := v }
  | .ki => { p with ki := v }
  | .kd => { p with kd := v }
  | .kff => { p with kff := v }
  | .iclamp => { p with iclamp := v }
  | .integ => p
  | .prev => p

/-- What a host read of a register returns (R34, R35, R44, R45, R72, R76); it has no side effect (R77). -/
def State.windowRead (s : State) : WindowReg → Word
  | .data i => s.d[i]
  | .cmd => s.cmd
  | .status => s.status.word
  | .faultCmd => s.faultCmd
  | .id => idWord
  | .vsupMv => s.vsupMv
  | .vmaxMv => s.vmaxMv
  | .vsupNorm => s.vsupNorm
  | .resMohm => s.resMohm
  | .pid n f => (s.pid n).get f
  | .reserved _ => 0
  | .param => paramWord

/-- What a host write to a register other than CMD does to the registers: it stores the value, except that
STATUS follows rule R36 and read-only and reserved words ignore it (R76, R77). -/
def State.windowStore (s : State) (r : WindowReg) (v : Word) : State :=
  match r with
  | .data i => { s with d := s.d.set i.val v i.isLt }
  | .cmd => s
  | .status => if v.getLsbD 0 && s.status.fault then s.clearFault else s
  | .faultCmd => s
  | .id => s
  | .vsupMv => { s with vsupMv := v }
  | .vmaxMv => { s with vmaxMv := v }
  | .vsupNorm => { s with vsupNorm := v }
  | .resMohm => { s with resMohm := v }
  | .pid n f => s.setPid n ((s.pid n).hostWrite f v)
  | .reserved _ => s
  | .param => s

/-- A served write: a write to CMD issues a command, any other stores (R77). -/
def windowWrite (r : WindowReg) (v : Word) (s : State) : Host.Outcome State Fault Refusal :=
  match r with
  | .cmd => runCommand v s
  | r => .next { s.windowStore r v with reply := .written }

/-- A host read: BUSERR, or the register's word as the reply and no other change (R74, R77). -/
def hostRead (off : Offset) (bytes : Nat) (s : State) : Host.Outcome State Fault Refusal :=
  match target off bytes with
  | .error e => .fault e
  | .ok r => .next { s with reply := .value (s.windowRead r) }

/-- A host write: BUSERR, or the write (R74, R77). -/
def hostWrite (off : Offset) (bytes : Nat) (v : Word) (s : State) : Host.Outcome State Fault Refusal :=
  match target off bytes with
  | .error e => .fault e
  | .ok r => windowWrite r v s

/-- One action of the host. An access while reset is asserted is refused (R302); the reset input follows
rule R300. -/
def hostAction (e : HostEvent) (s : State) : Host.Outcome State Fault Refusal :=
  match e with
  | .read off bytes => if s.inReset then .refused .accessInReset else hostRead off bytes s
  | .write off bytes v => if s.inReset then .refused .accessInReset else hostWrite off bytes v s
  | .resetLine level => .next (s.driveReset level)

/-- With no host action pending the block is idle (R301); while reset is asserted its registers hold their
reset values (R300). -/
def State.idle (s : State) : State := if s.inReset then s.resetRegisters else s

/-- The byte a byte-presenting bus shows at an offset: lane `off mod 4` of the register there, little-endian
(R73); `none` where no register is mapped. -/
def State.windowByte (s : State) (off : Offset) : Option Byte :=
  match windowMap (off.toNat / 4) with
  | some r => (wordLanes (s.windowRead r))[off.toNat % 4]?
  | none => none

/-- The platform address of an offset of the window (R70). -/
def windowAddress (off : Offset) : Nat := Config.fpmlBase + off.toNat

/-- The offset a platform address reaches, if it lies in the window (R70). -/
def windowOffset (addr : Nat) : Option Offset :=
  if Config.fpmlBase ≤ addr ∧ addr < Config.fpmlBase + Config.window then
    some (BitVec.ofNat 12 (addr - Config.fpmlBase))
  else none

end Sys2Proof.Machine
end

