-- ==== Sys2Proof/Machine/Step.lean ====
section
/-! DEFINITION. One step of the machine: the block serves the host's next action (R79), or is idle (R301). -/

namespace Sys2Proof.Machine

/-- One step: the oldest pending host action is taken from the list and performed, completely, before the
next (R79, R80); with none pending the block is idle (R301). -/
def step (s : State) : Host.Outcome State Fault Refusal :=
  match s.bus with
  | [] => .next s.idle
  | e :: rest => hostAction e { s with bus := rest }

/-- `s` with the host about to write a table row's word to CMD, so that the very next step issues it (log
2). The block fetches nothing (R83): a command comes to it by this write, for which the reset input must be
released (R302). -/
def State.withFetchWord (s : State) (nbits w : Nat) : State :=
  { s with
    inReset := false
    bus := .write 0x040 4 (ofLanes (wordLanes (tableWord nbits w))) :: s.bus }

end Sys2Proof.Machine
end

