-- ==== Sys2Proof/Safety.lean ====
section
/-! DEFINITION. What claims about the block are stated in: the frame of a completed command, the fault record,
the invariant of STATUS, and a host whose accesses are all served. -/

namespace Sys2Proof

/-- The data registers a command names as destinations (R31, R102). -/
def Instr.dests : Instr → List Reg
  | .sat16 rd _ => [rd]
  | .scale rd _ _ _ => [rd]
  | .norm rd _ _ => [rd]
  | .sincos rd _ => [rd, rd + 1]
  | .polar rd _ _ => [rd, rd + 1]
  | .vrot rd _ _ => [rd, rd + 1]
  | .clarke rd _ _ => [rd, rd + 1, rd + 2]
  | .svc rd _ _ => [rd, rd + 1, rd + 2]
  | .pid rd _ _ _ _ => [rd, rd + 1]
  | .est rd _ _ _ => [rd, rd + 1]
  | .pipe rd _ _ _ _ => [rd, rd + 1]

/-- The PID instances a command updates: PID its own, closed-loop EST and PIPE both (R51, R105, R106). -/
def Instr.ticks : Instr → List Inst
  | .sat16 .. => []
  | .scale .. => []
  | .norm .. => []
  | .sincos .. => []
  | .polar .. => []
  | .vrot .. => []
  | .clarke .. => []
  | .svc .. => []
  | .pid _ _ _ _ n => [n]
  | .est _ _ _ m => if m.closed then [.pid0, .pid1] else []
  | .pipe _ _ _ _ m => if !m.voltage && m.closed then [.pid0, .pid1] else []

/-- The destinations of a command that hold 16-bit results (R19, R24). -/
def Instr.narrowResults : Instr → List Reg
  | .sat16 rd _ => [rd]
  | .scale rd _ _ _ => [rd]
  | .norm rd _ _ => [rd]
  | .sincos rd _ => [rd, rd + 1]
  | .polar .. => []
  | .vrot .. => []
  | .clarke .. => []
  | .svc .. => []
  | .pid .. => []
  | .est .. => []
  | .pipe rd _ _ _ _ => [rd, rd + 1]

/-- The destinations of a command that hold 32-bit saturated or clamped results; the PID error is none of
them (R24). -/
def Instr.wideResults : Instr → List Reg
  | .sat16 .. => []
  | .scale .. => []
  | .norm .. => []
  | .sincos .. => []
  | .polar rd _ _ => [rd, rd + 1]
  | .vrot rd _ _ => [rd, rd + 1]
  | .clarke rd _ _ => [rd, rd + 1, rd + 2]
  | .svc rd _ _ => [rd, rd + 1, rd + 2]
  | .pid rd _ _ _ _ => [rd]
  | .est rd _ _ _ => [rd, rd + 1]
  | .pipe .. => []

end Sys2Proof

namespace Sys2Proof.Machine

/-- The word number in the window (offset over 4) of PIDn_INTEG (R50). -/
def integWord : Inst → Nat
  | .pid0 => 0x074 / 4
  | .pid1 => 0x094 / 4

/-- The word number in the window of PIDn_PREV (R50). -/
def prevWord : Inst → Nat
  | .pid0 => 0x078 / 4
  | .pid1 => 0x098 / 4

/-- The frame of a command that completed (R31, R37, R305): `t` is `s` except for the data registers in
`dst`, INTEG and PREV of the PID instances in `ticks`, and STATUS.CMDCNT, which is one more modulo 2^16. -/
structure Completed (dst : List Reg) (ticks : List Inst) (s t : State) : Prop where
  /-- Every other data register is unchanged. -/
  data : ∀ r, r ∉ dst → t.d[r] = s.d[r]
  /-- CMDCNT counts the command. -/
  count : t.status.cmdCnt = s.status.cmdCnt + 1
  /-- FAULT is unchanged. -/
  fault : t.status.fault = s.status.fault
  /-- CAUSE is unchanged. -/
  cause : t.status.cause = s.status.cause
  cmd : t.cmd = s.cmd
  faultCmd : t.faultCmd = s.faultCmd
  vsupMv : t.vsupMv = s.vsupMv
  vmaxMv : t.vmaxMv = s.vmaxMv
  vsupNorm : t.vsupNorm = s.vsupNorm
  resMohm : t.resMohm = s.resMohm
  /-- The gains and the integral bound of both instances are unchanged. -/
  gains : ∀ n, (t.pid n).kp = (s.pid n).kp ∧ (t.pid n).ki = (s.pid n).ki ∧ (t.pid n).kd = (s.pid n).kd ∧
    (t.pid n).kff = (s.pid n).kff ∧ (t.pid n).iclamp = (s.pid n).iclamp
  /-- An instance that is not ticked keeps its accumulator and previous error. -/
  pidState : ∀ n, n ∉ ticks → (t.pid n).integ = (s.pid n).integ ∧ (t.pid n).prev = (s.pid n).prev
  inReset : t.inReset = s.inReset
  bus : t.bus = s.bus
  reply : t.reply = s.reply
  /-- Every byte the window shows is unchanged, except those of the destination registers, of the ticked
  instances' INTEG and PREV, and of CMDCNT (offsets 0x046 and 0x047). -/
  bytes : ∀ off : Offset, off.toNat / 4 ∉ dst.map Fin.val →
    (∀ n ∈ ticks, off.toNat / 4 ≠ integWord n ∧ off.toNat / 4 ≠ prevWord n) →
    off.toNat ≠ 0x046 → off.toNat ≠ 0x047 → t.windowByte off = s.windowByte off

/-- The state a faulting command leaves: the state before it with FAULT set, the cause code in CAUSE and the
command word, which CMD holds, in FAULTCMD (R276, R277). -/
def faultRecord (code : BitVec 4) (s : State) : State :=
  { s with status := ⟨true, code, s.status.cmdCnt⟩, faultCmd := s.cmd }

/-- The integral accumulator of a tick with error `e` (R201), written with max and min. -/
def accumulated (p : Pid) (e : Int) : Int :=
  max (-p.iclamp.toInt) (min p.iclamp.toInt (p.integ.toInt + e))

/-- The output of a tick with error `e` (R201), written with max and min. -/
def controlOutput (p : Pid) (e ff limit : Int) : Int :=
  max (-limit) (min limit
    ((p.kp.toInt * e).tdiv 1000 + (p.ki.toInt * accumulated p e).tdiv 1000 +
      (p.kd.toInt * (e - p.prev.toInt)).tdiv 1000 + (p.kff.toInt * ff).tdiv 1000))

/-- The PID error fits a register (R273). -/
abbrev ErrorFits (e : Int) : Prop := -(2 ^ 31) ≤ e ∧ e ≤ 2 ^ 31 - 1

/-- Neither limit nor integral bounds are negative in closed-loop EST and PIPE (R272). -/
abbrev FeedbackPrecond (s : State) : Prop :=
  0 ≤ s.vsupMv.toInt ∧ 0 ≤ s.pid0.iclamp.toInt ∧ 0 ≤ s.pid1.iclamp.toInt

/-- INTEG and PREV of instance `n` in `t` are those of one tick with error `e` from `s` (R201, R202). -/
abbrev Ticked (n : Inst) (e : Int) (s t : State) : Prop :=
  (t.pid n).integ.toInt = accumulated (s.pid n) e ∧ (t.pid n).prev.toInt = e

/-- `normq` of rule R133, written with max and min. -/
def normalised (v d : Int) : Int := max (-32767) (min 32767 ((v * 2 ^ 15).tdiv d))

/-- `sat32` of rule R15, written with max and min. -/
def saturated (v : Int) : Int := max (-2147483647) (min 2147483647 v)

/-- The table index of the angle a register's pattern holds: bits 15:0, then `>> 6` (R142). -/
def tableIndex (w : Word) : Nat := w.toNat % 65536 / 64

/-- A command that answered `t` from `s` completed: CMDCNT advanced (R37). -/
abbrev Counted (s t : State) : Prop := t.status.cmdCnt = s.status.cmdCnt + 1

/-- The invariant of STATUS (R35): CAUSE is at most 4, and it is 0 exactly when FAULT = 0. -/
abbrev State.StatusInv (s : State) : Prop :=
  s.status.cause.toNat ≤ 4 ∧ (s.status.fault = false ↔ s.status.cause = 0)

/-- A served access: 32 bits wide, aligned and mapped (R71, R74, R75). -/
def served (off : Offset) (bytes : Nat) : Bool :=
  bytes == 4 && off.toNat % 4 == 0 && decide (off.toNat < 0x0A4)

/-- The host's pending actions keep to the rules: every access is served, and none is made while reset is
asserted (R74, R75, R302). -/
def hostOk : Bool → List HostEvent → Bool
  | _, [] => true
  | _, .resetLine level :: rest => hostOk level rest
  | r, .read off bytes :: rest => !r && served off bytes && hostOk r rest
  | r, .write off bytes _ :: rest => !r && served off bytes && hostOk r rest

end Sys2Proof.Machine
end

