-- ==== Sys2Proof/Certificates/Slice0/Obligations.lean ====
section
/-! DEFINITION. What is claimed of the block, from the numbered rules of spec/. -/

open Sys2Proof Sys2Proof.Machine

/-! ## Encoding (30_encoding.md) -/

/-- Decoding the word of any command gives the command back (R100 to R106). -/
def Obligations.EncodeThenDecodeIsIdentity : Prop :=
  ∀ i : Instr, decode (encode i) = .command i

/-- A word that decodes is the word of its command: no bit of a legal word is dropped (R100, R102). -/
def Obligations.DecodeThenEncodeIsIdentity : Prop :=
  ∀ (w : Word) (i : Instr), decode w = .command i → encode i = w

/-- A word selects a row of the opcode map by match and mask exactly when it decodes to a command of that
row, and no other word decodes (R103). -/
def Obligations.DecodeFollowsOpcodeMap : Prop :=
  ∀ w : Word,
    (∀ row ∈ opcodeMap, w &&& row.mask = row.pattern ↔ ∃ i, decode w = .command i ∧ i.op = row.op) ∧
    ((∀ row ∈ opcodeMap, w &&& row.mask ≠ row.pattern) → ∃ why, decode w = .illegal why)

/-- Words written out in the spec decode to the commands it names: the examples of R110 and of programs P1,
P3 and P4, one or more of every family. -/
def Obligations.WordsOfTheSpecDecode : Prop :=
  decode 0x10800000 = .command (.sincos 2 0) ∧
  decode 0x25004880 = .command (.pid 4 0 1 2 .pid1) ∧
  decode 0x2E009100 = .command (.pipe 8 0 2 4 ⟨false, true⟩) ∧
  decode 0x28000300 = .command (.est 0 0 0 ⟨true, true⟩) ∧
  decode 0x15004000 = .command (.polar 4 0 1) ∧
  decode 0x1991C000 = .command (.vrot 6 4 7) ∧
  decode 0x1C804000 = .command (.clarke 2 0 1) ∧
  decode 0x21894000 = .command (.svc 6 2 5) ∧
  decode 0x0E594000 = .command (.norm 9 6 5) ∧
  decode 0x0AA05400 = .command (.scale 10 8 1 5) ∧
  decode 0x06C80000 = .command (.sat16 11 2)

/-! ## Issuing a command (60_exceptions.md) -/

/-- A STEP RUNS THE DECODED COMMAND (R276): the host writes `w` to CMD, FAULT is 0 and `w` decodes to `i`;
then the step answers what `exec i` answers in the state where the write is taken and CMD holds `w`, with
the host told whether the command completed or faulted (the model's own `reply`, log 3). -/
def Obligations.StepRunsDecodedCommand : Prop :=
  ∀ (s : State) (w : Word) (rest : List HostEvent) (i : Instr),
    s.bus = .write 0x040 4 w :: rest → s.inReset = false → s.status.fault = false →
    decode w = .command i →
    ∃ t, exec i { s with bus := rest, cmd := w } = .next t ∧
      step s = .next { t with reply := if t.status.fault then .faulted t.status.cause else .completed }

/-- While FAULT = 1 a CMD write is dropped: CMD takes the word and nothing else changes (R278). -/
def Obligations.CommandDroppedWhileFaulted : Prop :=
  ∀ (s : State) (w : Word) (rest : List HostEvent),
    s.bus = .write 0x040 4 w :: rest → s.inReset = false → s.status.fault = true →
    step s = .next { s with bus := rest, cmd := w, reply := .dropped }

/-- A word with an unassigned OPC, a non-zero RSV or a non-zero field that its row marks 0 raises ILLEGAL:
cause 1 and the word are recorded and nothing else changes (R274, R276, R277). -/
def Obligations.IllegalWordFaults : Prop :=
  ∀ (s : State) (w : Word) (rest : List HostEvent),
    s.bus = .write 0x040 4 w :: rest → s.inReset = false → s.status.fault = false →
    (let c := Cmd32.ofWord w
     c.opc = 0 ∨ 0x0C ≤ c.opc.val ∨ c.rsv ≠ 0 ∨
      (c.rs2 ≠ 0 ∧ c.opc.val ∈ [0x01, 0x04]) ∨
      (c.rs3 ≠ 0 ∧ c.opc.val ∈ [0x01, 0x03, 0x04, 0x05, 0x06, 0x07, 0x08, 0x0A]) ∨
      (c.mode ≠ 0 ∧ c.opc.val ∉ [0x0A, 0x0B]) ∨
      (c.inst ≠ 0 ∧ c.opc.val ≠ 0x09)) →
    step s = .next { s with
      bus := rest, cmd := w, status := ⟨true, 1, s.status.cmdCnt⟩, faultCmd := w, reply := .faulted 1 }

/-- EVERY COMMAND ANSWERS A NEXT STATE, and it either leaves the state before it with only the fault record
(PRECOND, DIV0 or RANGE), or changes only the registers it names, the PID state it ticks and CMDCNT (R31,
R37, R277, R305, I20). -/
def Obligations.CommandsCompleteOrFaultPrecisely : Prop :=
  ∀ (i : Instr) (s : State),
    (∃ code : BitVec 4, (code = 2 ∨ code = 3 ∨ code = 4) ∧ exec i s = .next (faultRecord code s)) ∨
    (∃ t, exec i s = .next t ∧ Completed i.dests i.ticks s t)

/-! ## The commands, one by one -/

/-- SAT16 (R130). -/
def Obligations.Sat16SaturatesToSixteenBits : Prop :=
  ∀ (rd rs1 : Reg) (s : State),
    (encode (.sat16 rd rs1)).toNat = 0x04000000 + rd.val * 2 ^ 22 + rs1.val * 2 ^ 18 ∧
    ∃ t, exec (.sat16 rd rs1) s = .next t ∧
      t.x rd = max (-32767) (min 32767 (s.x rs1)) ∧ Completed [rd] [] s t

/-- SCALE (R131). -/
def Obligations.ScaleMultipliesDividesAndSaturates : Prop :=
  ∀ (rd rs1 rs2 rs3 : Reg) (s : State),
    (encode (.scale rd rs1 rs2 rs3)).toNat =
      0x08000000 + rd.val * 2 ^ 22 + rs1.val * 2 ^ 18 + rs2.val * 2 ^ 14 + rs3.val * 2 ^ 10 ∧
    (s.x rs3 ≠ 0 → ∃ t, exec (.scale rd rs1 rs2 rs3) s = .next t ∧
      t.x rd = max (-32767) (min 32767 ((s.x rs1 * s.x rs2).tdiv (s.x rs3))) ∧ Completed [rd] [] s t) ∧
    (s.x rs3 = 0 → exec (.scale rd rs1 rs2 rs3) s = .next (faultRecord 3 s))

/-- NORM (R132). -/
def Obligations.NormDividesShiftedVoltage : Prop :=
  ∀ (rd rs1 rs2 : Reg) (s : State),
    (encode (.norm rd rs1 rs2)).toNat =
      0x0C000000 + rd.val * 2 ^ 22 + rs1.val * 2 ^ 18 + rs2.val * 2 ^ 14 ∧
    (s.x rs2 ≠ 0 → ∃ t, exec (.norm rd rs1 rs2) s = .next t ∧
      t.x rd = max (-32767) (min 32767 ((s.x rs1 * 2 ^ 15).tdiv (s.x rs2))) ∧ Completed [rd] [] s t) ∧
    (s.x rs2 = 0 → exec (.norm rd rs1 rs2) s = .next (faultRecord 3 s))

/-- SINCOS (R142). -/
def Obligations.SincosWritesSineAndCosine : Prop :=
  ∀ (rd rs1 : Reg) (s : State),
    (encode (.sincos rd rs1)).toNat = 0x10000000 + rd.val * 2 ^ 22 + rs1.val * 2 ^ 18 ∧
    ∃ t, exec (.sincos rd rs1) s = .next t ∧
      t.x rd = lsin (tableIndex s.d[rs1]) ∧ t.x (rd + 1) = lcos (tableIndex s.d[rs1]) ∧
      (-32767 ≤ t.x rd ∧ t.x rd ≤ 32767) ∧ (-32767 ≤ t.x (rd + 1) ∧ t.x (rd + 1) ≤ 32767) ∧
      Completed [rd, rd + 1] [] s t

/-- POLAR (R150); `/` is the floor division of `asr`, and saturation never changes a value. -/
def Obligations.PolarWritesCartesianPair : Prop :=
  ∀ (rd rs1 rs2 : Reg) (s : State),
    (encode (.polar rd rs1 rs2)).toNat =
      0x14000000 + rd.val * 2 ^ 22 + rs1.val * 2 ^ 18 + rs2.val * 2 ^ 14 ∧
    ∃ t, exec (.polar rd rs1 rs2) s = .next t ∧
      t.x rd = s.x rs2 * lsin (tableIndex s.d[rs1]) / 2 ^ 15 ∧
      t.x (rd + 1) = s.x rs2 * lcos (tableIndex s.d[rs1]) / 2 ^ 15 ∧
      Completed [rd, rd + 1] [] s t

/-- VROT (R151). -/
def Obligations.VrotRotatesThePair : Prop :=
  ∀ (rd rs1 rs2 : Reg) (s : State),
    (encode (.vrot rd rs1 rs2)).toNat =
      0x18000000 + rd.val * 2 ^ 22 + rs1.val * 2 ^ 18 + rs2.val * 2 ^ 14 ∧
    ∃ t, exec (.vrot rd rs1 rs2) s = .next t ∧
      t.x rd = saturated ((s.x rs1 * lcos (tableIndex s.d[rs2]) +
        s.x (rs1 + 1) * lsin (tableIndex s.d[rs2])) / 2 ^ 15) ∧
      t.x (rd + 1) = saturated ((s.x (rs1 + 1) * lcos (tableIndex s.d[rs2]) -
        s.x rs1 * lsin (tableIndex s.d[rs2])) / 2 ^ 15) ∧
      Completed [rd, rd + 1] [] s t

/-- CLARKE (R160). -/
def Obligations.ClarkeWritesThreePhases : Prop :=
  ∀ (rd rs1 rs2 : Reg) (s : State),
    (encode (.clarke rd rs1 rs2)).toNat =
      0x1C000000 + rd.val * 2 ^ 22 + rs1.val * 2 ^ 18 + rs2.val * 2 ^ 14 ∧
    ∃ t, exec (.clarke rd rs1 rs2) s = .next t ∧
      t.x rd = saturated (s.x rs1) ∧
      t.x (rd + 1) = saturated (28378 * s.x rs2 / 2 ^ 15 - s.x rs1 / 2) ∧
      t.x (rd + 2) = saturated (-(28378 * s.x rs2 / 2 ^ 15) - s.x rs1 / 2) ∧
      Completed [rd, rd + 1, rd + 2] [] s t

/-- SVC (R170). -/
def Obligations.SvcAddsCenteringOffset : Prop :=
  ∀ (rd rs1 rs2 : Reg) (s : State),
    (encode (.svc rd rs1 rs2)).toNat =
      0x20000000 + rd.val * 2 ^ 22 + rs1.val * 2 ^ 18 + rs2.val * 2 ^ 14 ∧
    (let mx := max (s.x rs1) (max (s.x (rs1 + 1)) (s.x (rs1 + 2)))
     let mn := min (s.x rs1) (min (s.x (rs1 + 1)) (s.x (rs1 + 2)))
     let off := ((s.x rs2 - mx) - mn).tdiv 2
     ∃ t, exec (.svc rd rs1 rs2) s = .next t ∧
      t.x rd = saturated (s.x rs1 + off) ∧ t.x (rd + 1) = saturated (s.x (rs1 + 1) + off) ∧
      t.x (rd + 2) = saturated (s.x (rs1 + 2) + off) ∧
      Completed [rd, rd + 1, rd + 2] [] s t)

/-- PID (R201, R202, R203): one tick of instance `n`, PRECOND before RANGE. -/
def Obligations.PidTicksItsInstance : Prop :=
  ∀ (rd rs1 rs2 rs3 : Reg) (n : Inst) (s : State),
    (encode (.pid rd rs1 rs2 rs3 n)).toNat =
      0x24000000 + rd.val * 2 ^ 22 + rs1.val * 2 ^ 18 + rs2.val * 2 ^ 14 + rs3.val * 2 ^ 10 +
        (if n = .pid1 then 2 ^ 7 else 0) ∧
    (let e := s.x rs2 - s.x rs1
     let limit := s.x (rs3 + 1)
     let clampBound := (s.pid n).iclamp.toInt
     (0 ≤ limit → 0 ≤ clampBound → ErrorFits e →
       ∃ t, exec (.pid rd rs1 rs2 rs3 n) s = .next t ∧
         t.x rd = controlOutput (s.pid n) e (s.x rs3) limit ∧ t.x (rd + 1) = e ∧
         Ticked n e s t ∧ Completed [rd, rd + 1] [n] s t) ∧
     (limit < 0 ∨ clampBound < 0 → exec (.pid rd rs1 rs2 rs3 n) s = .next (faultRecord 2 s)) ∧
     (0 ≤ limit → 0 ≤ clampBound → ¬ErrorFits e →
       exec (.pid rd rs1 rs2 rs3 n) s = .next (faultRecord 4 s)))

/-- EST (R230, R231): open loop with MODE[0] = 0, one tick of both instances with MODE[0] = 1. -/
def Obligations.EstEstimatesVoltage : Prop :=
  ∀ (rd rs1 rs2 : Reg) (mode : Mode) (s : State),
    (encode (.est rd rs1 rs2 mode)).toNat =
      0x28000000 + rd.val * 2 ^ 22 + rs1.val * 2 ^ 18 + rs2.val * 2 ^ 14 +
        (if mode.voltage then 2 ^ 9 else 0) + (if mode.closed then 2 ^ 8 else 0) ∧
    (let e0 := s.x rs1 - s.x rs2
     let e1 := s.x (rs1 + 1) - s.x (rs2 + 1)
     (mode.closed = false → ∃ t, exec (.est rd rs1 rs2 mode) s = .next t ∧
       t.x rd = saturated ((s.x rs1 * s.resMohm.toInt).tdiv 1000) ∧
       t.x (rd + 1) = saturated ((s.x (rs1 + 1) * s.resMohm.toInt).tdiv 1000) ∧
       Completed [rd, rd + 1] [] s t) ∧
     (mode.closed = true → FeedbackPrecond s → ErrorFits e0 → ErrorFits e1 →
       ∃ t, exec (.est rd rs1 rs2 mode) s = .next t ∧
         t.x rd = controlOutput s.pid0 e0 0 s.vsupMv.toInt ∧
         t.x (rd + 1) = controlOutput s.pid1 e1 0 s.vsupMv.toInt ∧
         Ticked .pid0 e0 s t ∧ Ticked .pid1 e1 s t ∧
         Completed [rd, rd + 1] [.pid0, .pid1] s t) ∧
     (mode.closed = true → ¬FeedbackPrecond s →
       exec (.est rd rs1 rs2 mode) s = .next (faultRecord 2 s)) ∧
     (mode.closed = true → FeedbackPrecond s → ¬(ErrorFits e0 ∧ ErrorFits e1) →
       exec (.est rd rs1 rs2 mode) s = .next (faultRecord 4 s)))

/-- PIPE in voltage framing, MODE[1] = 1 (R251): the voltage target normalised, or DIV0. -/
def Obligations.PipeVoltageNormalisesTarget : Prop :=
  ∀ (rd rs1 rs2 rs3 : Reg) (mode : Mode) (s : State), mode.voltage = true →
    (encode (.pipe rd rs1 rs2 rs3 mode)).toNat =
      0x2C000000 + rd.val * 2 ^ 22 + rs1.val * 2 ^ 18 + rs2.val * 2 ^ 14 + rs3.val * 2 ^ 10 +
        2 ^ 9 + (if mode.closed then 2 ^ 8 else 0) ∧
    (s.vmaxMv.toInt ≠ 0 → ∃ t, exec (.pipe rd rs1 rs2 rs3 mode) s = .next t ∧
      t.x rd = normalised (s.x rs3) s.vmaxMv.toInt ∧
      t.x (rd + 1) = normalised (s.x (rs3 + 1)) s.vmaxMv.toInt ∧
      Completed [rd, rd + 1] [] s t) ∧
    (s.vmaxMv.toInt = 0 → exec (.pipe rd rs1 rs2 rs3 mode) s = .next (faultRecord 3 s))

/-- PIPE with MODE = 0b00 (R251): rotate, open-loop estimate, normalise; or DIV0. -/
def Obligations.PipeOpenLoopNormalisesEstimate : Prop :=
  ∀ (rd rs1 rs2 rs3 : Reg) (s : State),
    (encode (.pipe rd rs1 rs2 rs3 ⟨false, false⟩)).toNat =
      0x2C000000 + rd.val * 2 ^ 22 + rs1.val * 2 ^ 18 + rs2.val * 2 ^ 14 + rs3.val * 2 ^ 10 ∧
    (let c0 := s.x (rs1 + 1) * lsin (tableIndex s.d[rs1]) / 2 ^ 15
     let c1 := s.x (rs1 + 1) * lcos (tableIndex s.d[rs1]) / 2 ^ 15
     (s.vmaxMv.toInt ≠ 0 → ∃ t, exec (.pipe rd rs1 rs2 rs3 ⟨false, false⟩) s = .next t ∧
       t.x rd = normalised (saturated ((c0 * s.resMohm.toInt).tdiv 1000)) s.vmaxMv.toInt ∧
       t.x (rd + 1) = normalised (saturated ((c1 * s.resMohm.toInt).tdiv 1000)) s.vmaxMv.toInt ∧
       Completed [rd, rd + 1] [] s t) ∧
     (s.vmaxMv.toInt = 0 → exec (.pipe rd rs1 rs2 rs3 ⟨false, false⟩) s = .next (faultRecord 3 s)))

/-- PIPE with MODE = 0b01 (R251): rotate, one tick of both instances, normalise; the faults come in the
order PRECOND, DIV0, RANGE (R275). -/
def Obligations.PipeClosedLoopTicksBothInstances : Prop :=
  ∀ (rd rs1 rs2 rs3 : Reg) (s : State),
    (encode (.pipe rd rs1 rs2 rs3 ⟨false, true⟩)).toNat =
      0x2C000000 + rd.val * 2 ^ 22 + rs1.val * 2 ^ 18 + rs2.val * 2 ^ 14 + rs3.val * 2 ^ 10 + 2 ^ 8 ∧
    (let e0 := s.x (rs1 + 1) * lsin (tableIndex s.d[rs1]) / 2 ^ 15 - s.x rs2
     let e1 := s.x (rs1 + 1) * lcos (tableIndex s.d[rs1]) / 2 ^ 15 - s.x (rs2 + 1)
     let vmax := s.vmaxMv.toInt
     (FeedbackPrecond s → vmax ≠ 0 → ErrorFits e0 → ErrorFits e1 →
       ∃ t, exec (.pipe rd rs1 rs2 rs3 ⟨false, true⟩) s = .next t ∧
         t.x rd = normalised (controlOutput s.pid0 e0 0 s.vsupMv.toInt) vmax ∧
         t.x (rd + 1) = normalised (controlOutput s.pid1 e1 0 s.vsupMv.toInt) vmax ∧
         Ticked .pid0 e0 s t ∧ Ticked .pid1 e1 s t ∧
         Completed [rd, rd + 1] [.pid0, .pid1] s t) ∧
     (¬FeedbackPrecond s → exec (.pipe rd rs1 rs2 rs3 ⟨false, true⟩) s = .next (faultRecord 2 s)) ∧
     (FeedbackPrecond s → vmax = 0 →
       exec (.pipe rd rs1 rs2 rs3 ⟨false, true⟩) s = .next (faultRecord 3 s)) ∧
     (FeedbackPrecond s → vmax ≠ 0 → ¬(ErrorFits e0 ∧ ErrorFits e1) →
       exec (.pipe rd rs1 rs2 rs3 ⟨false, true⟩) s = .next (faultRecord 4 s)))

/-! ## Properties of the kernels (40_fixed_point_math.md) -/

/-- The shared normalisation is odd, and monotone for a positive divisor (R133). -/
def Obligations.NormalisationIsOddAndMonotone : Prop :=
  ∀ v d : Int, d ≠ 0 →
    normq v d = max (-32767) (min 32767 ((v * 2 ^ 15).tdiv d)) ∧
    normq (-v) d = -normq v d ∧
    (0 < d → ∀ v', v ≤ v' → normq v d ≤ normq v' d)

/-- The table lookup: the facts of the table (R140), the four quadrants and the cosine (R141), and the exact
identities (R143), at every index. -/
def Obligations.SineLookupIdentities : Prop :=
  (∀ j k : Nat, j ≤ k → k ≤ 256 → qtab j ≤ qtab k) ∧
  (qtab 0 = 0 ∧ qtab 128 = 23170 ∧ qtab 256 = 32767) ∧
  (∀ k : Nat, k ≤ 256 → qtab k ≠ -32768 ∧ -qtab k ≠ -32768) ∧
  ∀ i : Nat,
    (i / 256 % 4 = 0 → lsin i = qtab (i % 256)) ∧
    (i / 256 % 4 = 1 → lsin i = qtab (256 - i % 256)) ∧
    (i / 256 % 4 = 2 → lsin i = -qtab (i % 256)) ∧
    (i / 256 % 4 = 3 → lsin i = -qtab (256 - i % 256)) ∧
    lcos i = lsin ((i + 256) % 1024) ∧
    lsin ((i + 512) % 1024) = -lsin i ∧ lsin ((512 + 1024 - i % 1024) % 1024) = lsin i ∧
    lcos i = lsin ((256 + 1024 - i % 1024) % 1024)

/-- An angle is read modulo a whole turn, from bits 15:0 only, truncated to a multiple of 64 (R20, R142). -/
def Obligations.AngleIsReadModuloWholeTurns : Prop :=
  ∀ (w : Word) (k : Nat), angleIndex (w + BitVec.ofNat 32 (65536 * k)) = angleIndex w ∧
    (angleIndex w : Int) = int16 w % 65536 / 64

/-- POLAR of (t, m) writes what VROT writes for the pair (0, m) and the angle t (R152). -/
def Obligations.PolarIsRotationOfTheMagnitude : Prop :=
  ∀ (rd rs1 rs2 rp ra : Reg) (s u : State),
    u.d[ra] = s.d[rs1] → u.x rp = 0 → u.x (rp + 1) = s.x rs2 →
    ∃ t v, exec (.polar rd rs1 rs2) s = .next t ∧ exec (.vrot rd rp ra) u = .next v ∧
      t.d[rd] = v.d[rd] ∧ t.d[rd + 1] = v.d[rd + 1]

/-- When no result of CLARKE saturates, the phases sum to 0 for even alpha and 1 for odd alpha (R161). -/
def Obligations.ClarkePhasesSumToParity : Prop :=
  ∀ (rd rs1 rs2 : Reg) (s : State),
    saturated (s.x rs1) = s.x rs1 →
    saturated (28378 * s.x rs2 / 2 ^ 15 - s.x rs1 / 2) = 28378 * s.x rs2 / 2 ^ 15 - s.x rs1 / 2 →
    saturated (-(28378 * s.x rs2 / 2 ^ 15) - s.x rs1 / 2) = -(28378 * s.x rs2 / 2 ^ 15) - s.x rs1 / 2 →
    ∃ t, exec (.clarke rd rs1 rs2) s = .next t ∧
      t.x rd + t.x (rd + 1) + t.x (rd + 2) = s.x rs1 - 2 * (s.x rs1 / 2) ∧
      (s.x rs1 % 2 = 0 → t.x rd + t.x (rd + 1) + t.x (rd + 2) = 0) ∧
      (s.x rs1 % 2 = 1 → t.x rd + t.x (rd + 1) + t.x (rd + 2) = 1)

/-- After SVC the phases lie in [0, S], exactly, whenever the supply is at least max - min and no output
saturates (R171). -/
def Obligations.SvcCentersWithinSupply : Prop :=
  ∀ (rd rs1 rs2 : Reg) (s : State),
    let p0 := s.x rs1
    let p1 := s.x (rs1 + 1)
    let p2 := s.x (rs1 + 2)
    let mx := max p0 (max p1 p2)
    let mn := min p0 (min p1 p2)
    let off := ((s.x rs2 - mx) - mn).tdiv 2
    mx - mn ≤ s.x rs2 → saturated (p0 + off) = p0 + off → saturated (p1 + off) = p1 + off →
    saturated (p2 + off) = p2 + off →
    ∃ t, exec (.svc rd rs1 rs2) s = .next t ∧
      0 ≤ min (t.x rd) (min (t.x (rd + 1)) (t.x (rd + 2))) ∧
      max (t.x rd) (max (t.x (rd + 1)) (t.x (rd + 2))) ≤ s.x rs2

/-! ## Properties of the controllers (41, 42, 43) -/

/-- With all gains zero, or with zero KP, KI and KD and a zero feed-forward term, every completed PID update
outputs 0, whatever the history: by PID, and by closed-loop EST and PIPE, whose feed-forward is zero, with
any KFF (R206). -/
def Obligations.ZeroGainsGiveZeroOutput : Prop :=
  ∀ (s t : State), Counted s t →
    (∀ (rd rs1 rs2 rs3 : Reg) (n : Inst), (s.pid n).kp = 0 → (s.pid n).ki = 0 → (s.pid n).kd = 0 →
      ((s.pid n).kff = 0 ∨ s.x rs3 = 0) → exec (.pid rd rs1 rs2 rs3 n) s = .next t → t.x rd = 0) ∧
    (∀ (rd rs1 rs2 : Reg) (v : Bool), (∀ n, (s.pid n).kp = 0 ∧ (s.pid n).ki = 0 ∧ (s.pid n).kd = 0) →
      exec (.est rd rs1 rs2 ⟨v, true⟩) s = .next t → t.x rd = 0 ∧ t.x (rd + 1) = 0) ∧
    (∀ (rd rs1 rs2 rs3 : Reg), (∀ n, (s.pid n).kp = 0 ∧ (s.pid n).ki = 0 ∧ (s.pid n).kd = 0) →
      exec (.pipe rd rs1 rs2 rs3 ⟨false, true⟩) s = .next t → t.x rd = 0 ∧ t.x (rd + 1) = 0)

/-- A completed PID command's output lies within its limit, and the error it writes is the new PREV (R207). -/
def Obligations.PidOutputWithinLimit : Prop :=
  ∀ (rd rs1 rs2 rs3 : Reg) (n : Inst) (s t : State),
    exec (.pid rd rs1 rs2 rs3 n) s = .next t → Counted s t →
    -s.x (rs3 + 1) ≤ t.x rd ∧ t.x rd ≤ s.x (rs3 + 1) ∧ t.d[rd + 1] = (t.pid n).prev

/-- Directly after any completed update of an instance, by PID, closed-loop EST or closed-loop PIPE, its
accumulator lies within its bound, and it is the old one plus the error, clamped: integration is never
skipped (R52, R204). -/
def Obligations.IntegralStaysWithinClamp : Prop :=
  ∀ (i : Instr) (n : Inst) (s t : State), n ∈ i.ticks → exec i s = .next t → Counted s t →
    -(s.pid n).iclamp.toInt ≤ (t.pid n).integ.toInt ∧ (t.pid n).integ.toInt ≤ (s.pid n).iclamp.toInt ∧
    (t.pid n).integ.toInt = accumulated (s.pid n) (t.pid n).prev.toInt

/-- Closed-loop EST has on each instance the effect of a PID command with actual m_n, reference t_n,
feed-forward 0 and limit VSUP_MV (R232). -/
def Obligations.ClosedLoopEstIsTwoPidTicks : Prop :=
  ∀ (rd rs1 rs2 qd qa qr qf : Reg) (v : Bool) (n : Inst) (k : Reg) (s t u p : State),
    (n, k) ∈ [(Inst.pid0, (0 : Reg)), (.pid1, 1)] →
    exec (.est rd rs1 rs2 ⟨v, true⟩) s = .next t → Counted s t →
    u.pid n = s.pid n → u.x qa = s.x (rs2 + k) → u.x qr = s.x (rs1 + k) → u.x qf = 0 →
    u.x (qf + 1) = s.vsupMv.toInt →
    exec (.pid qd qa qr qf n) u = .next p →
    Counted u p ∧ p.pid n = t.pid n ∧ p.d[qd] = t.d[rd + k]

/-- PIPE in current framing, with VMAX_MV not 0, does what POLAR into a scratch pair `tp`, EST from there
into a pair `up`, and two normalisations do: the same outputs and the same PID state; and it faults with
EST's cause when EST faults (R252). The scratch pair must not overlap the measured pair. -/
def Obligations.PipeIsPolarThenEstThenNorm : Prop :=
  ∀ (rd rs1 rs2 rs3 tp up : Reg) (closed : Bool) (s s1 s2 : State),
    tp ∉ [rs2, rs2 + 1] → tp + 1 ∉ [rs2, rs2 + 1] → s.vmaxMv.toInt ≠ 0 →
    exec (.polar tp rs1 (rs1 + 1)) s = .next s1 →
    exec (.est up tp rs2 ⟨false, closed⟩) s1 = .next s2 →
    (Counted s1 s2 → ∃ t, exec (.pipe rd rs1 rs2 rs3 ⟨false, closed⟩) s = .next t ∧ Counted s t ∧
      t.x rd = normalised (s2.x up) s.vmaxMv.toInt ∧
      t.x (rd + 1) = normalised (s2.x (up + 1)) s.vmaxMv.toInt ∧
      t.pid0 = s2.pid0 ∧ t.pid1 = s2.pid1) ∧
    (¬Counted s1 s2 →
      exec (.pipe rd rs1 rs2 rs3 ⟨false, closed⟩) s = .next (faultRecord s2.status.cause s))

/-- PIPE in voltage framing writes what two NORMs of the voltage target by VMAX_MV write (R252). -/
def Obligations.PipeVoltageIsTwoNorms : Prop :=
  ∀ (rd rs1 rs2 rs3 a b dv : Reg) (closed : Bool) (s n0 n1 : State),
    s.d[dv] = s.vmaxMv → s.vmaxMv.toInt ≠ 0 →
    exec (.norm a rs3 dv) s = .next n0 → exec (.norm b (rs3 + 1) dv) s = .next n1 →
    ∃ t, exec (.pipe rd rs1 rs2 rs3 ⟨true, closed⟩) s = .next t ∧ t.d[rd] = n0.d[a] ∧
      t.d[rd + 1] = n1.d[b]

/-! ## Rules about the whole machine -/

/-- No 16-bit result equals -32768 and no 32-bit saturated or clamped result equals -2^31 (R24). -/
def Obligations.ResultsAvoidTheSentinel : Prop :=
  ∀ (i : Instr) (s t : State), exec i s = .next t → Counted s t →
    (∀ r ∈ i.narrowResults, t.x r ≠ -32768) ∧ (∀ r ∈ i.wideResults, t.x r ≠ -(2 ^ 31))

/-- VSUP_NORM has no effect on any result (R42). -/
def Obligations.VsupNormHasNoEffect : Prop :=
  ∀ (i : Instr) (s : State) (v : Word), ∃ t, exec i s = .next t ∧
    exec i { s with vsupNorm := v } = .next { t with vsupNorm := v }

/-- A step changes INTEG or PREV of an instance only when reset acts, or when a command that ticks that
instance is issued while FAULT = 0 (R51). Reset acts when the input is driven high, driven low after being
high, or held high. -/
def Obligations.PidStateHasOneOwner : Prop :=
  ∀ (s t : State) (n : Inst), step s = .next t →
    ((t.pid n).integ ≠ (s.pid n).integ ∨ (t.pid n).prev ≠ (s.pid n).prev) →
    (∃ level rest, s.bus = .resetLine level :: rest ∧ (level = true ∨ s.inReset = true)) ∨
    (s.bus = [] ∧ s.inReset = true) ∨
    (∃ w rest i, s.bus = .write 0x040 4 w :: rest ∧ s.status.fault = false ∧
      decode w = .command i ∧ n ∈ i.ticks)

/-- A step changes CMDCNT only when reset acts or a command completes without fault, and then by one (R37).
A command completes without fault: it is written to CMD while FAULT = 0, decodes, and leaves FAULT = 0. -/
def Obligations.CommandCounterCountsCompletions : Prop :=
  ∀ s t : State, step s = .next t → s.inReset = false → (∀ rest, s.bus ≠ .resetLine true :: rest) →
    (Counted s t ↔ ∃ w rest i, s.bus = .write 0x040 4 w :: rest ∧ s.status.fault = false ∧
      decode w = .command i ∧ t.status.fault = false) ∧
    (¬Counted s t → t.status.cmdCnt = s.status.cmdCnt)

/-- FAULT is set only by a CMD write, which then records the word written and a cause from 1 to 4 and
changes nothing else: data, configuration and PID registers and CMDCNT keep their values (R277). -/
def Obligations.FaultsArePrecise : Prop :=
  ∀ s t : State, step s = .next t → s.status.fault = false → t.status.fault = true →
    ∃ w rest, s.bus = .write 0x040 4 w :: rest ∧ 1 ≤ t.status.cause.toNat ∧ t.status.cause.toNat ≤ 4 ∧
      t = { s with bus := rest, cmd := w, faultCmd := w, reply := .faulted t.status.cause,
                   status := ⟨true, t.status.cause, s.status.cmdCnt⟩ }

/-- THE STATUS INVARIANT IS KEPT BY EVERY STEP: CAUSE is at most 4 and is 0 exactly when FAULT = 0 (R35). -/
def Obligations.EveryStepKeepsStatusInvariant : Prop :=
  ∀ s t : State, s.StatusInv → step s = .next t → t.StatusInv

/-- The state after reset meets the status invariant (R35, R55). -/
def Obligations.ResetMeetsStatusInvariant : Prop :=
  State.reset.StatusInv ∧ State.reset.status.word = 0

/-- A HOST THAT KEEPS THE RULES IS NEVER STOPPED: if every pending access is aligned, 32 bits wide and
mapped and none is made in reset, the step answers a next state, whose pending accesses are as good; so no
command, legal or not, and no operand value ever stops the block (R74, R75, R302, I20). -/
def Obligations.RuleKeepingHostIsNeverStopped : Prop :=
  ∀ s : State, hostOk s.inReset s.bus = true → ∃ t, step s = .next t ∧ hostOk t.inReset t.bus = true

/-! ## Reset (70_reset_and_hazards.md) -/

/-- After reset every register of the window reads 0, but for ID and PARAM (R55). -/
def Obligations.ResetValuesAreZero : Prop :=
  ∀ r : WindowReg, State.reset.windowRead r =
    if r = .id then 0x46504D4C else if r = .param then 0x03E8010A else 0

/-- Asserting reset from any state, and releasing it, gives every register its reset value, and while it
stays asserted the registers hold them (R300). Driving the input low when it is low changes no register, which
is the model's choice (log 6). -/
def Obligations.ResetLineResetsEverything : Prop :=
  ∀ (s : State) (level : Bool) (rest : List HostEvent),
    (s.bus = .resetLine level :: rest → (level = true ∨ s.inReset = true) →
      step s = .next { State.reset with inReset := level, bus := rest }) ∧
    (s.bus = [] → s.inReset = true → step s = .next { State.reset with inReset := true }) ∧
    (s.bus = .resetLine level :: rest → level = false → s.inReset = false →
      step s = .next { s with bus := rest })

/-- A host access while reset is asserted has no step: it is refused (R302). -/
def Obligations.AccessInResetIsRefused : Prop :=
  ∀ (s : State) (off : Offset) (bytes : Nat) (v : Word) (rest : List HostEvent), s.inReset = true →
    (s.bus = .read off bytes :: rest → step s = .refused .accessInReset) ∧
    (s.bus = .write off bytes v :: rest → step s = .refused .accessInReset)

/-- What the reset values imply before configuration (R303): every PIPE faults DIV0, EST and PID complete
with output 0, and no command faults PRECOND. -/
def Obligations.CommandsAtResetValues : Prop :=
  ∀ w : Word,
    let s : State := { State.reset with cmd := w }
    (∀ (rd rs1 rs2 rs3 : Reg) (m : Mode), exec (.pipe rd rs1 rs2 rs3 m) s = .next (faultRecord 3 s)) ∧
    (∀ (rd rs1 rs2 rs3 : Reg), exec (.norm rd rs1 rs2) s = .next (faultRecord 3 s) ∧
      exec (.scale rd rs1 rs2 rs3) s = .next (faultRecord 3 s)) ∧
    (∀ (rd rs1 rs2 : Reg) (m : Mode), ∃ t, exec (.est rd rs1 rs2 m) s = .next t ∧
      Completed [rd, rd + 1] (Instr.est rd rs1 rs2 m).ticks s t ∧ t.x rd = 0 ∧ t.x (rd + 1) = 0) ∧
    (∀ (rd rs1 rs2 rs3 : Reg) (n : Inst), ∃ t, exec (.pid rd rs1 rs2 rs3 n) s = .next t ∧
      Completed [rd, rd + 1] [n] s t ∧ t.x rd = 0) ∧
    (∀ i : Instr, exec i s ≠ .next (faultRecord 2 s))

/-! ## The register window (20_memory.md) -/

/-- After reset the block is idle until the host acts (R301). -/
def Obligations.IdleUntilTheHostActs : Prop :=
  ∀ s : State, s.bus = [] → s.inReset = false → step s = .next s

/-- Data register D_i is read and written at offset 4i, and a write changes no other register (R72). -/
def Obligations.DataRegistersInTheWindow : Prop :=
  ∀ (s : State) (i : Reg) (v : Word) (rest : List HostEvent), s.inReset = false →
    (s.bus = .read (BitVec.ofNat 12 (4 * i.val)) 4 :: rest →
      step s = .next { s with bus := rest, reply := .value s.d[i] }) ∧
    (s.bus = .write (BitVec.ofNat 12 (4 * i.val)) 4 v :: rest →
      ∃ t, step s = .next t ∧ t.d[i] = v ∧ (∀ j, j ≠ i → t.d[j] = s.d[j]) ∧
        { t with d := s.d } = { s with bus := rest, reply := .written })

/-- What a read returns at every other mapped offset, with no side effect (R71, R76, R77): the register map,
ID and PARAM their constants, and the reserved words 0. -/
def Obligations.WindowReadsTheRegisterMap : Prop :=
  ∀ (s : State) (off : Offset) (w : Word) (rest : List HostEvent), s.inReset = false →
    (off, w) ∈ ([(0x040, s.cmd), (0x044, s.status.word), (0x048, s.faultCmd), (0x04C, 0x46504D4C),
      (0x050, s.vsupMv), (0x054, s.vmaxMv), (0x058, s.vsupNorm), (0x05C, s.resMohm),
      (0x060, s.pid0.kp), (0x064, s.pid0.ki), (0x068, s.pid0.kd), (0x06C, s.pid0.kff),
      (0x070, s.pid0.iclamp), (0x074, s.pid0.integ), (0x078, s.pid0.prev), (0x07C, 0),
      (0x080, s.pid1.kp), (0x084, s.pid1.ki), (0x088, s.pid1.kd), (0x08C, s.pid1.kff),
      (0x090, s.pid1.iclamp), (0x094, s.pid1.integ), (0x098, s.pid1.prev), (0x09C, 0),
      (0x0A0, 0x03E8010A)] : List (Offset × Word)) →
    s.bus = .read off 4 :: rest → step s = .next { s with bus := rest, reply := .value w }

/-- A write to a configuration register stores the value there and changes nothing else (R40, R41, R50). -/
def Obligations.ConfigurationWritesStore : Prop :=
  ∀ (s : State) (off : Offset) (v : Word) (u : State) (rest : List HostEvent), s.inReset = false →
    (off, u) ∈ ([(0x050, { s with vsupMv := v }), (0x054, { s with vmaxMv := v }),
      (0x058, { s with vsupNorm := v }), (0x05C, { s with resMohm := v }),
      (0x060, { s with pid0 := { s.pid0 with kp := v } }), (0x064, { s with pid0 := { s.pid0 with ki := v } }),
      (0x068, { s with pid0 := { s.pid0 with kd := v } }), (0x06C, { s with pid0 := { s.pid0 with kff := v } }),
      (0x070, { s with pid0 := { s.pid0 with iclamp := v } }),
      (0x080, { s with pid1 := { s.pid1 with kp := v } }), (0x084, { s with pid1 := { s.pid1 with ki := v } }),
      (0x088, { s with pid1 := { s.pid1 with kd := v } }), (0x08C, { s with pid1 := { s.pid1 with kff := v } }),
      (0x090, { s with pid1 := { s.pid1 with iclamp := v } })] : List (Offset × State)) →
    s.bus = .write off 4 v :: rest → step s = .next { u with bus := rest, reply := .written }

/-- A write to a read-only register or a reserved word completes and changes nothing, and a reserved word
reads 0 (R76). -/
def Obligations.ReadOnlyWritesAreIgnored : Prop :=
  ∀ (s : State) (off : Offset) (v : Word) (rest : List HostEvent), s.inReset = false →
    (off ∈ ([0x048, 0x04C, 0x0A0, 0x074, 0x078, 0x094, 0x098, 0x07C, 0x09C] : List Offset) →
      s.bus = .write off 4 v :: rest → step s = .next { s with bus := rest, reply := .written }) ∧
    (off ∈ ([0x07C, 0x09C] : List Offset) →
      s.bus = .read off 4 :: rest → step s = .next { s with bus := rest, reply := .value 0 })

/-- STATUS reads as its fields at their places, the reserved bits 0 (R35). -/
def Obligations.StatusReadsItsFields : Prop :=
  ∀ (s : State) (rest : List HostEvent), s.inReset = false → s.bus = .read 0x044 4 :: rest →
    ∃ w : Word, step s = .next { s with bus := rest, reply := .value w } ∧
      w.getLsbD 0 = s.status.fault ∧ w.extractLsb' 1 3 = 0 ∧ w.extractLsb' 4 4 = s.status.cause ∧
      w.extractLsb' 8 8 = 0 ∧ w.extractLsb' 16 16 = s.status.cmdCnt

/-- A write to STATUS clears FAULT and CAUSE if bit 0 is set and FAULT = 1, and has no other effect (R36). -/
def Obligations.StatusWriteClearsFault : Prop :=
  ∀ (s : State) (w : Word) (rest : List HostEvent), s.inReset = false → s.bus = .write 0x044 4 w :: rest →
    (w.getLsbD 0 = true → s.status.fault = true →
      step s = .next { s with bus := rest, reply := .written, status := ⟨false, 0, s.status.cmdCnt⟩ }) ∧
    (w.getLsbD 0 = false ∨ s.status.fault = false →
      step s = .next { s with bus := rest, reply := .written })

/-- A host read of CMD returns the last word written to it, whether or not it executed (R34). -/
def Obligations.CmdReadsBackTheLastWord : Prop :=
  ∀ (s : State) (w : Word) (rest : List HostEvent), s.inReset = false →
    s.bus = .write 0x040 4 w :: .read 0x040 4 :: rest →
    ∃ t u, step s = .next t ∧ step t = .next u ∧ u.reply = .value w ∧ u.bus = rest

/-- An access that is not 32 bits wide, not aligned, or unmapped is answered with BUSERR, a fault of the
host agent (R74, R75, log 4). -/
def Obligations.BadAccessIsBusError : Prop :=
  ∀ (s : State) (off : Offset) (bytes : Nat) (v : Word) (rest : List HostEvent), s.inReset = false →
    (s.bus = .read off bytes :: rest ∨ s.bus = .write off bytes v :: rest) →
    (bytes ≠ 4 → step s = .fault .busErrWidth) ∧
    (bytes = 4 → off.toNat % 4 ≠ 0 → step s = .fault .busErrAlign) ∧
    (bytes = 4 → off.toNat % 4 = 0 → 0x0A4 ≤ off.toNat → step s = .fault .busErrUnmapped) ∧
    (bytes = 4 → off.toNat % 4 = 0 → off.toNat < 0x0A4 → ∃ t, step s = .next t)

/-- A read changes no register, and repeating it returns the same value (R77). -/
def Obligations.ReadsHaveNoSideEffects : Prop :=
  ∀ (s t : State) (off : Offset) (bytes : Nat) (rest : List HostEvent),
    s.bus = .read off bytes :: .read off bytes :: rest → step s = .next t →
    (∃ w, t.reply = .value w ∧ t = { s with bus := .read off bytes :: rest, reply := .value w }) ∧
    ∃ u, step t = .next u ∧ u.reply = t.reply

/-- Byte offset 4k + j carries bits [8j+7 : 8j] of the register at offset 4k, for the data registers and for
every mapped register, whose word is what a host read of offset 4k returns; and the lanes of a word make up
the word (R73). -/
def Obligations.WindowIsLittleEndian : Prop :=
  (∀ (s t : State) (k : Nat) (j : Fin 4) (w : Word), k ≤ 0x0A0 / 4 →
    step { s with inReset := false, bus := [.read (BitVec.ofNat 12 (4 * k)) 4] } = .next t →
    t.reply = .value w →
    s.windowByte (BitVec.ofNat 12 (4 * k + j.val)) = some (w.extractLsb' (8 * j.val) 8)) ∧
  (∀ (s : State) (i : Reg) (j : Fin 4),
    s.windowByte (BitVec.ofNat 12 (4 * i.val + j.val)) = some (s.d[i].extractLsb' (8 * j.val) 8)) ∧
  (∀ w : Word, ofLanes (wordLanes w) = w)

/-- The platform address of an offset reaches that offset, whatever FPML_BASE is (R70). -/
def Obligations.WindowAddressesReachTheirOffset : Prop :=
  ∀ off : Offset, windowOffset (windowAddress off) = some off

/-- The table is the sine rounded to the nearest integer (R140), so the lookup is within half a step of the
sine and the cosine at every index, and the angle read lies less than one table step below the angle the
register holds (R143). -/
def Obligations.SineTableRoundsTheSine : Prop :=
  (∀ k : Nat, k ≤ 256 → |(qtab k : ℝ) - 32767 * Real.sin (Real.pi * k / 512)| < 1 / 2) ∧
  (∀ i : Nat, i < 1024 →
    |(lsin i : ℝ) - 32767 * Real.sin (2 * Real.pi * i / 1024)| < 1 / 2 ∧
    |(lcos i : ℝ) - 32767 * Real.cos (2 * Real.pi * i / 1024)| < 1 / 2) ∧
  (∀ w : Word,
    0 ≤ (uint16 w : ℝ) * Real.pi / 32768 - 2 * Real.pi * (angleIndex w : ℝ) / 1024 ∧
    (uint16 w : ℝ) * Real.pi / 32768 - 2 * Real.pi * (angleIndex w : ℝ) / 1024 < 2 * Real.pi / 1024)
end

