-- ==== Sys2Proof/Laws/Arith.lean ====
section
/-! SUPPORT. The arithmetic primitives in the vocabulary of `omega`: clamps as max and min, the ranges of the
narrowing functions, and the round trip of a 32-bit pattern. -/

namespace Sys2Proof.Machine

theorem clamp_eq_max_min {lo hi : Int} (h : lo ≤ hi) (v : Int) : clamp v lo hi = max lo (min hi v) := by
  unfold clamp; split <;> [skip; split] <;> omega

theorem clamp_bounds {lo hi : Int} (h : lo ≤ hi) (v : Int) : lo ≤ clamp v lo hi ∧ clamp v lo hi ≤ hi := by
  rw [clamp_eq_max_min h]; omega

theorem sat16_eq (v : Int) : sat16 v = max (-32767) (min 32767 v) :=
  clamp_eq_max_min (by decide) v

theorem sat32_eq (v : Int) : sat32 v = max (-2147483647) (min 2147483647 v) :=
  clamp_eq_max_min (by decide) v

theorem sat16_bounds (v : Int) : -32767 ≤ sat16 v ∧ sat16 v ≤ 32767 := by
  rw [sat16_eq]; omega

theorem sat32_bounds (v : Int) : -2147483647 ≤ sat32 v ∧ sat32 v ≤ 2147483647 := by
  rw [sat32_eq]; omega

/-- A value already in range is unchanged by saturation. -/
theorem sat32_of_bounds {v : Int} (h : -2147483647 ≤ v ∧ v ≤ 2147483647) : sat32 v = v := by
  rw [sat32_eq]; omega

theorem asr_eq (a : Int) (n : Nat) : asr a n = a / 2 ^ n := rfl

theorem shl_eq (a : Int) (n : Nat) : shl a n = a * 2 ^ n := rfl

theorem tdiv_eq (a b : Int) : tdiv a b = a.tdiv b := rfl

theorem normq_eq (v d : Int) : normq v d = max (-32767) (min 32767 ((v * 2 ^ 15).tdiv d)) :=
  sat16_eq _

theorem fits32_iff (v : Int) : fits32 v = true ↔ -(2 ^ 31) ≤ v ∧ v ≤ 2 ^ 31 - 1 := by
  simp [fits32]

/-- A register holds every 32-bit signed value exactly. -/
theorem toInt_bits32 {v : Int} (lo : -2147483648 ≤ v) (hi : v ≤ 2147483647) : (bits32 v).toInt = v := by
  unfold bits32
  rw [BitVec.toInt_ofInt]
  exact Int.bmod_eq_of_le (by omega) (by omega)

theorem toInt_bounds (w : Word) : -2147483648 ≤ w.toInt ∧ w.toInt ≤ 2147483647 := by
  have h1 := BitVec.le_toInt w
  have h2 := BitVec.toInt_lt (x := w)
  omega

theorem qtabRows_le : ∀ row ∈ qtabRows, ∀ v ∈ row, v ≤ 32767 := by decide

/-- Every entry of the sine table is a Q15 magnitude. -/
theorem qtab_bounds (k : Nat) : 0 ≤ qtab k ∧ qtab k ≤ 32767 := by
  have key : ((qtabRows.getD (k / 16) []).getD (k % 16) 0) ≤ 32767 := by
    rw [List.getD_eq_getElem?_getD, List.getD_eq_getElem?_getD]
    cases h : qtabRows[k / 16]? with
    | none => simp
    | some row =>
      cases h' : row[k % 16]? with
      | none => simp [h']
      | some v =>
        simpa [h'] using qtabRows_le row (List.mem_of_getElem? h) v (List.mem_of_getElem? h')
  unfold qtab
  omega

/-- Sines are Q15 values, and never the minimum of 16 bits (R24, R142). -/
theorem lsin_bounds (i : Nat) : -32767 ≤ lsin i ∧ lsin i ≤ 32767 := by
  have h1 := qtab_bounds (i % 256)
  have h2 := qtab_bounds (256 - i % 256)
  unfold lsin
  split <;> constructor <;> dsimp only at * <;> omega

theorem lcos_bounds (i : Nat) : -32767 ≤ lcos i ∧ lcos i ≤ 32767 := lsin_bounds _

theorem angleIndex_eq (w : Word) : angleIndex w = w.toNat % 65536 / 64 := rfl

end Sys2Proof.Machine
end

