-- ==== Sys2Proof/Laws/State.lean ====
section
/-! SUPPORT. What each named update of the state does to each of its fields, one lemma each, so that no proof
unfolds a record update. -/

namespace Sys2Proof.Machine

section setX
variable (s : State) (i : Reg) (v : Int)

@[simp] theorem State.setX_d : (s.setX i v).d = s.d.set i.val (bits32 v) i.isLt := rfl
@[simp] theorem State.setX_cmd : (s.setX i v).cmd = s.cmd := rfl
@[simp] theorem State.setX_status : (s.setX i v).status = s.status := rfl
@[simp] theorem State.setX_faultCmd : (s.setX i v).faultCmd = s.faultCmd := rfl
@[simp] theorem State.setX_vsupMv : (s.setX i v).vsupMv = s.vsupMv := rfl
@[simp] theorem State.setX_vmaxMv : (s.setX i v).vmaxMv = s.vmaxMv := rfl
@[simp] theorem State.setX_vsupNorm : (s.setX i v).vsupNorm = s.vsupNorm := rfl
@[simp] theorem State.setX_resMohm : (s.setX i v).resMohm = s.resMohm := rfl
@[simp] theorem State.setX_pid0 : (s.setX i v).pid0 = s.pid0 := rfl
@[simp] theorem State.setX_pid1 : (s.setX i v).pid1 = s.pid1 := rfl
@[simp] theorem State.setX_inReset : (s.setX i v).inReset = s.inReset := rfl
@[simp] theorem State.setX_bus : (s.setX i v).bus = s.bus := rfl
@[simp] theorem State.setX_reply : (s.setX i v).reply = s.reply := rfl

end setX

section takeFault
variable (s : State) (c : Cause)

@[simp] theorem State.takeFault_d : (s.takeFault c).d = s.d := rfl
@[simp] theorem State.takeFault_cmd : (s.takeFault c).cmd = s.cmd := rfl
@[simp] theorem State.takeFault_status : (s.takeFault c).status = s.status.raise c := rfl
@[simp] theorem State.takeFault_faultCmd : (s.takeFault c).faultCmd = s.cmd := rfl
@[simp] theorem State.takeFault_vsupMv : (s.takeFault c).vsupMv = s.vsupMv := rfl
@[simp] theorem State.takeFault_vmaxMv : (s.takeFault c).vmaxMv = s.vmaxMv := rfl
@[simp] theorem State.takeFault_vsupNorm : (s.takeFault c).vsupNorm = s.vsupNorm := rfl
@[simp] theorem State.takeFault_resMohm : (s.takeFault c).resMohm = s.resMohm := rfl
@[simp] theorem State.takeFault_pid0 : (s.takeFault c).pid0 = s.pid0 := rfl
@[simp] theorem State.takeFault_pid1 : (s.takeFault c).pid1 = s.pid1 := rfl
@[simp] theorem State.takeFault_inReset : (s.takeFault c).inReset = s.inReset := rfl
@[simp] theorem State.takeFault_bus : (s.takeFault c).bus = s.bus := rfl
@[simp] theorem State.takeFault_reply : (s.takeFault c).reply = s.reply := rfl

end takeFault

section clearFault
variable (s : State)

@[simp] theorem State.clearFault_d : s.clearFault.d = s.d := rfl
@[simp] theorem State.clearFault_cmd : s.clearFault.cmd = s.cmd := rfl
@[simp] theorem State.clearFault_status : s.clearFault.status = s.status.clear := rfl
@[simp] theorem State.clearFault_faultCmd : s.clearFault.faultCmd = s.faultCmd := rfl
@[simp] theorem State.clearFault_vsupMv : s.clearFault.vsupMv = s.vsupMv := rfl
@[simp] theorem State.clearFault_vmaxMv : s.clearFault.vmaxMv = s.vmaxMv := rfl
@[simp] theorem State.clearFault_vsupNorm : s.clearFault.vsupNorm = s.vsupNorm := rfl
@[simp] theorem State.clearFault_resMohm : s.clearFault.resMohm = s.resMohm := rfl
@[simp] theorem State.clearFault_pid0 : s.clearFault.pid0 = s.pid0 := rfl
@[simp] theorem State.clearFault_pid1 : s.clearFault.pid1 = s.pid1 := rfl
@[simp] theorem State.clearFault_inReset : s.clearFault.inReset = s.inReset := rfl
@[simp] theorem State.clearFault_bus : s.clearFault.bus = s.bus := rfl
@[simp] theorem State.clearFault_reply : s.clearFault.reply = s.reply := rfl

end clearFault

section countCommand
variable (s : State)

@[simp] theorem State.countCommand_d : s.countCommand.d = s.d := rfl
@[simp] theorem State.countCommand_cmd : s.countCommand.cmd = s.cmd := rfl
@[simp] theorem State.countCommand_status : s.countCommand.status = s.status.count := rfl
@[simp] theorem State.countCommand_faultCmd : s.countCommand.faultCmd = s.faultCmd := rfl
@[simp] theorem State.countCommand_vsupMv : s.countCommand.vsupMv = s.vsupMv := rfl
@[simp] theorem State.countCommand_vmaxMv : s.countCommand.vmaxMv = s.vmaxMv := rfl
@[simp] theorem State.countCommand_vsupNorm : s.countCommand.vsupNorm = s.vsupNorm := rfl
@[simp] theorem State.countCommand_resMohm : s.countCommand.resMohm = s.resMohm := rfl
@[simp] theorem State.countCommand_pid0 : s.countCommand.pid0 = s.pid0 := rfl
@[simp] theorem State.countCommand_pid1 : s.countCommand.pid1 = s.pid1 := rfl
@[simp] theorem State.countCommand_inReset : s.countCommand.inReset = s.inReset := rfl
@[simp] theorem State.countCommand_bus : s.countCommand.bus = s.bus := rfl
@[simp] theorem State.countCommand_reply : s.countCommand.reply = s.reply := rfl

end countCommand

section setCmd
variable (s : State) (w : Word)

@[simp] theorem State.setCmd_d : (s.setCmd w).d = s.d := rfl
@[simp] theorem State.setCmd_cmd : (s.setCmd w).cmd = w := rfl
@[simp] theorem State.setCmd_status : (s.setCmd w).status = s.status := rfl
@[simp] theorem State.setCmd_faultCmd : (s.setCmd w).faultCmd = s.faultCmd := rfl
@[simp] theorem State.setCmd_vsupMv : (s.setCmd w).vsupMv = s.vsupMv := rfl
@[simp] theorem State.setCmd_vmaxMv : (s.setCmd w).vmaxMv = s.vmaxMv := rfl
@[simp] theorem State.setCmd_vsupNorm : (s.setCmd w).vsupNorm = s.vsupNorm := rfl
@[simp] theorem State.setCmd_resMohm : (s.setCmd w).resMohm = s.resMohm := rfl
@[simp] theorem State.setCmd_pid0 : (s.setCmd w).pid0 = s.pid0 := rfl
@[simp] theorem State.setCmd_pid1 : (s.setCmd w).pid1 = s.pid1 := rfl
@[simp] theorem State.setCmd_inReset : (s.setCmd w).inReset = s.inReset := rfl
@[simp] theorem State.setCmd_bus : (s.setCmd w).bus = s.bus := rfl
@[simp] theorem State.setCmd_reply : (s.setCmd w).reply = s.reply := rfl

end setCmd

section commandReply
variable (s : State)

@[simp] theorem State.commandReply_d : s.commandReply.d = s.d := rfl
@[simp] theorem State.commandReply_cmd : s.commandReply.cmd = s.cmd := rfl
@[simp] theorem State.commandReply_status : s.commandReply.status = s.status := rfl
@[simp] theorem State.commandReply_faultCmd : s.commandReply.faultCmd = s.faultCmd := rfl
@[simp] theorem State.commandReply_vsupMv : s.commandReply.vsupMv = s.vsupMv := rfl
@[simp] theorem State.commandReply_vmaxMv : s.commandReply.vmaxMv = s.vmaxMv := rfl
@[simp] theorem State.commandReply_vsupNorm : s.commandReply.vsupNorm = s.vsupNorm := rfl
@[simp] theorem State.commandReply_resMohm : s.commandReply.resMohm = s.resMohm := rfl
@[simp] theorem State.commandReply_pid0 : s.commandReply.pid0 = s.pid0 := rfl
@[simp] theorem State.commandReply_pid1 : s.commandReply.pid1 = s.pid1 := rfl
@[simp] theorem State.commandReply_inReset : s.commandReply.inReset = s.inReset := rfl
@[simp] theorem State.commandReply_bus : s.commandReply.bus = s.bus := rfl
@[simp] theorem State.commandReply_reply : s.commandReply.reply = if s.status.fault then .faulted s.status.cause else .completed := rfl

end commandReply

section resetRegisters
variable (s : State)

@[simp] theorem State.resetRegisters_d : s.resetRegisters.d = State.reset.d := rfl
@[simp] theorem State.resetRegisters_cmd : s.resetRegisters.cmd = State.reset.cmd := rfl
@[simp] theorem State.resetRegisters_status : s.resetRegisters.status = State.reset.status := rfl
@[simp] theorem State.resetRegisters_faultCmd : s.resetRegisters.faultCmd = State.reset.faultCmd := rfl
@[simp] theorem State.resetRegisters_vsupMv : s.resetRegisters.vsupMv = State.reset.vsupMv := rfl
@[simp] theorem State.resetRegisters_vmaxMv : s.resetRegisters.vmaxMv = State.reset.vmaxMv := rfl
@[simp] theorem State.resetRegisters_vsupNorm : s.resetRegisters.vsupNorm = State.reset.vsupNorm := rfl
@[simp] theorem State.resetRegisters_resMohm : s.resetRegisters.resMohm = State.reset.resMohm := rfl
@[simp] theorem State.resetRegisters_pid0 : s.resetRegisters.pid0 = State.reset.pid0 := rfl
@[simp] theorem State.resetRegisters_pid1 : s.resetRegisters.pid1 = State.reset.pid1 := rfl
@[simp] theorem State.resetRegisters_inReset : s.resetRegisters.inReset = s.inReset := rfl
@[simp] theorem State.resetRegisters_bus : s.resetRegisters.bus = s.bus := rfl
@[simp] theorem State.resetRegisters_reply : s.resetRegisters.reply = State.reset.reply := rfl

end resetRegisters

section setPid
variable (s : State) (n : Inst) (p : Pid)

@[simp] theorem State.setPid_d : (s.setPid n p).d = s.d := by cases n <;> rfl
@[simp] theorem State.setPid_cmd : (s.setPid n p).cmd = s.cmd := by cases n <;> rfl
@[simp] theorem State.setPid_status : (s.setPid n p).status = s.status := by cases n <;> rfl
@[simp] theorem State.setPid_faultCmd : (s.setPid n p).faultCmd = s.faultCmd := by cases n <;> rfl
@[simp] theorem State.setPid_vsupMv : (s.setPid n p).vsupMv = s.vsupMv := by cases n <;> rfl
@[simp] theorem State.setPid_vmaxMv : (s.setPid n p).vmaxMv = s.vmaxMv := by cases n <;> rfl
@[simp] theorem State.setPid_vsupNorm : (s.setPid n p).vsupNorm = s.vsupNorm := by cases n <;> rfl
@[simp] theorem State.setPid_resMohm : (s.setPid n p).resMohm = s.resMohm := by cases n <;> rfl
@[simp] theorem State.setPid_inReset : (s.setPid n p).inReset = s.inReset := by cases n <;> rfl
@[simp] theorem State.setPid_bus : (s.setPid n p).bus = s.bus := by cases n <;> rfl
@[simp] theorem State.setPid_reply : (s.setPid n p).reply = s.reply := by cases n <;> rfl

end setPid

section pidCommit
variable (s : State) (n : Inst) (t : PidTick)

@[simp] theorem State.pidCommit_d : (s.pidCommit n t).d = s.d := by cases n <;> rfl
@[simp] theorem State.pidCommit_cmd : (s.pidCommit n t).cmd = s.cmd := by cases n <;> rfl
@[simp] theorem State.pidCommit_status : (s.pidCommit n t).status = s.status := by cases n <;> rfl
@[simp] theorem State.pidCommit_faultCmd : (s.pidCommit n t).faultCmd = s.faultCmd := by cases n <;> rfl
@[simp] theorem State.pidCommit_vsupMv : (s.pidCommit n t).vsupMv = s.vsupMv := by cases n <;> rfl
@[simp] theorem State.pidCommit_vmaxMv : (s.pidCommit n t).vmaxMv = s.vmaxMv := by cases n <;> rfl
@[simp] theorem State.pidCommit_vsupNorm : (s.pidCommit n t).vsupNorm = s.vsupNorm := by cases n <;> rfl
@[simp] theorem State.pidCommit_resMohm : (s.pidCommit n t).resMohm = s.resMohm := by cases n <;> rfl
@[simp] theorem State.pidCommit_inReset : (s.pidCommit n t).inReset = s.inReset := by cases n <;> rfl
@[simp] theorem State.pidCommit_bus : (s.pidCommit n t).bus = s.bus := by cases n <;> rfl
@[simp] theorem State.pidCommit_reply : (s.pidCommit n t).reply = s.reply := by cases n <;> rfl

end pidCommit

section setPair
variable (s : State) (r : Reg) (v0 v1 : Int)

@[simp] theorem State.setPair_d : (s.setPair r v0 v1).d = (s.d.set r.val (bits32 v0) r.isLt).set (r + 1).val (bits32 v1) (r + 1).isLt := rfl
@[simp] theorem State.setPair_cmd : (s.setPair r v0 v1).cmd = s.cmd := rfl
@[simp] theorem State.setPair_status : (s.setPair r v0 v1).status = s.status := rfl
@[simp] theorem State.setPair_faultCmd : (s.setPair r v0 v1).faultCmd = s.faultCmd := rfl
@[simp] theorem State.setPair_vsupMv : (s.setPair r v0 v1).vsupMv = s.vsupMv := rfl
@[simp] theorem State.setPair_vmaxMv : (s.setPair r v0 v1).vmaxMv = s.vmaxMv := rfl
@[simp] theorem State.setPair_vsupNorm : (s.setPair r v0 v1).vsupNorm = s.vsupNorm := rfl
@[simp] theorem State.setPair_resMohm : (s.setPair r v0 v1).resMohm = s.resMohm := rfl
@[simp] theorem State.setPair_pid0 : (s.setPair r v0 v1).pid0 = s.pid0 := rfl
@[simp] theorem State.setPair_pid1 : (s.setPair r v0 v1).pid1 = s.pid1 := rfl
@[simp] theorem State.setPair_inReset : (s.setPair r v0 v1).inReset = s.inReset := rfl
@[simp] theorem State.setPair_bus : (s.setPair r v0 v1).bus = s.bus := rfl
@[simp] theorem State.setPair_reply : (s.setPair r v0 v1).reply = s.reply := rfl

end setPair

section setTriple
variable (s : State) (r : Reg) (v0 v1 v2 : Int)

@[simp] theorem State.setTriple_d : (s.setTriple r v0 v1 v2).d = ((s.d.set r.val (bits32 v0) r.isLt).set (r + 1).val (bits32 v1) (r + 1).isLt).set (r + 2).val (bits32 v2) (r + 2).isLt := rfl
@[simp] theorem State.setTriple_cmd : (s.setTriple r v0 v1 v2).cmd = s.cmd := rfl
@[simp] theorem State.setTriple_status : (s.setTriple r v0 v1 v2).status = s.status := rfl
@[simp] theorem State.setTriple_faultCmd : (s.setTriple r v0 v1 v2).faultCmd = s.faultCmd := rfl
@[simp] theorem State.setTriple_vsupMv : (s.setTriple r v0 v1 v2).vsupMv = s.vsupMv := rfl
@[simp] theorem State.setTriple_vmaxMv : (s.setTriple r v0 v1 v2).vmaxMv = s.vmaxMv := rfl
@[simp] theorem State.setTriple_vsupNorm : (s.setTriple r v0 v1 v2).vsupNorm = s.vsupNorm := rfl
@[simp] theorem State.setTriple_resMohm : (s.setTriple r v0 v1 v2).resMohm = s.resMohm := rfl
@[simp] theorem State.setTriple_pid0 : (s.setTriple r v0 v1 v2).pid0 = s.pid0 := rfl
@[simp] theorem State.setTriple_pid1 : (s.setTriple r v0 v1 v2).pid1 = s.pid1 := rfl
@[simp] theorem State.setTriple_inReset : (s.setTriple r v0 v1 v2).inReset = s.inReset := rfl
@[simp] theorem State.setTriple_bus : (s.setTriple r v0 v1 v2).bus = s.bus := rfl
@[simp] theorem State.setTriple_reply : (s.setTriple r v0 v1 v2).reply = s.reply := rfl

end setTriple

@[simp] theorem State.pid_pid0 (s : State) : s.pid .pid0 = s.pid0 := rfl
@[simp] theorem State.pid_pid1 (s : State) : s.pid .pid1 = s.pid1 := rfl

@[simp] theorem State.setPid_pid_same (s : State) (n : Inst) (p : Pid) : (s.setPid n p).pid n = p := by
  cases n <;> rfl

@[simp] theorem State.setPid_pid_other (s : State) {n m : Inst} (p : Pid) (h : m ≠ n) :
    (s.setPid n p).pid m = s.pid m := by
  cases n <;> cases m <;> first | rfl | exact absurd rfl h

@[simp] theorem State.setPid_pid0_of_pid1 (s : State) (p : Pid) : (s.setPid .pid1 p).pid0 = s.pid0 := rfl
@[simp] theorem State.setPid_pid1_of_pid0 (s : State) (p : Pid) : (s.setPid .pid0 p).pid1 = s.pid1 := rfl
@[simp] theorem State.setPid_pid0_of_pid0 (s : State) (p : Pid) : (s.setPid .pid0 p).pid0 = p := rfl
@[simp] theorem State.setPid_pid1_of_pid1 (s : State) (p : Pid) : (s.setPid .pid1 p).pid1 = p := rfl

@[simp] theorem Status.raise_fault (t : Status) (c : Cause) : (t.raise c).fault = true := rfl
@[simp] theorem Status.raise_cause (t : Status) (c : Cause) : (t.raise c).cause = c.code := rfl
@[simp] theorem Status.raise_cmdCnt (t : Status) (c : Cause) : (t.raise c).cmdCnt = t.cmdCnt := rfl
@[simp] theorem Status.clear_fault (t : Status) : t.clear.fault = false := rfl
@[simp] theorem Status.clear_cause (t : Status) : t.clear.cause = 0 := rfl
@[simp] theorem Status.clear_cmdCnt (t : Status) : t.clear.cmdCnt = t.cmdCnt := rfl
@[simp] theorem Status.count_fault (t : Status) : t.count.fault = t.fault := rfl
@[simp] theorem Status.count_cause (t : Status) : t.count.cause = t.cause := rfl
@[simp] theorem Status.count_cmdCnt (t : Status) : t.count.cmdCnt = t.cmdCnt + 1 := rfl

end Sys2Proof.Machine
end

