-- ==== Sys2Proof/Laws/Ops.lean ====
section
/-! SUPPORT. What the shared operations do, said once: register reads after writes, ending a command, and
serving a host access. -/

namespace Sys2Proof.Machine

theorem State.x_eq (s : State) (r : Reg) : s.x r = s.d[r].toInt := rfl

theorem State.x_bounds (s : State) (r : Reg) : -2147483648 ≤ s.x r ∧ s.x r ≤ 2147483647 :=
  toInt_bounds _

theorem State.setX_d_same (s : State) (r : Reg) (v : Int) : (s.setX r v).d[r] = bits32 v := by
  simp

theorem State.setX_d_other (s : State) {r q : Reg} (v : Int) (h : q ≠ r) :
    (s.setX r v).d[q] = s.d[q] := by
  have : r.val ≠ q.val := fun e => h (Fin.ext e.symm)
  simp [this]

/-- Reading back a register just written with a value that fits it. -/
theorem State.setX_x_same (s : State) (r : Reg) {v : Int} (lo : -2147483648 ≤ v) (hi : v ≤ 2147483647) :
    (s.setX r v).x r = v := by
  rw [State.x_eq, State.setX_d_same, toInt_bits32 lo hi]

theorem State.setX_x_other (s : State) {r q : Reg} (v : Int) (h : q ≠ r) : (s.setX r v).x q = s.x q := by
  rw [State.x_eq, State.setX_d_other s v h, State.x_eq]

theorem reg_ne_add_one (r : Reg) : r ≠ r + 1 := by revert r; decide
theorem reg_ne_add_two (r : Reg) : r ≠ r + 2 := by revert r; decide
theorem reg_add_one_ne_add_two (r : Reg) : r + 1 ≠ r + 2 := by revert r; decide

/-- Both components of a pair just written read back. -/
theorem State.setPair_x (s : State) (r : Reg) {v0 v1 : Int}
    (h0 : -2147483648 ≤ v0 ∧ v0 ≤ 2147483647) (h1 : -2147483648 ≤ v1 ∧ v1 ≤ 2147483647) :
    (s.setPair r v0 v1).x r = v0 ∧ (s.setPair r v0 v1).x (r + 1) = v1 := by
  refine ⟨?_, State.setX_x_same _ _ h1.1 h1.2⟩
  unfold State.setPair
  rw [State.setX_x_other _ _ (reg_ne_add_one r), State.setX_x_same _ _ h0.1 h0.2]

theorem State.setPair_d_other (s : State) {r q : Reg} (v0 v1 : Int) (h : q ∉ [r, r + 1]) :
    (s.setPair r v0 v1).d[q] = s.d[q] := by
  simp only [List.mem_cons, List.not_mem_nil, or_false, not_or] at h
  unfold State.setPair
  rw [State.setX_d_other _ _ h.2, State.setX_d_other _ _ h.1]

/-- All three components of a triple just written read back. -/
theorem State.setTriple_x (s : State) (r : Reg) {v0 v1 v2 : Int}
    (h0 : -2147483648 ≤ v0 ∧ v0 ≤ 2147483647) (h1 : -2147483648 ≤ v1 ∧ v1 ≤ 2147483647)
    (h2 : -2147483648 ≤ v2 ∧ v2 ≤ 2147483647) :
    (s.setTriple r v0 v1 v2).x r = v0 ∧ (s.setTriple r v0 v1 v2).x (r + 1) = v1 ∧
      (s.setTriple r v0 v1 v2).x (r + 2) = v2 := by
  unfold State.setTriple
  refine ⟨?_, ?_, State.setX_x_same _ _ h2.1 h2.2⟩
  · rw [State.setX_x_other _ _ (reg_ne_add_two r), State.setX_x_other _ _ (reg_ne_add_one r),
      State.setX_x_same _ _ h0.1 h0.2]
  · rw [State.setX_x_other _ _ (reg_add_one_ne_add_two r), State.setX_x_same _ _ h1.1 h1.2]

theorem State.setTriple_d_other (s : State) {r q : Reg} (v0 v1 v2 : Int) (h : q ∉ [r, r + 1, r + 2]) :
    (s.setTriple r v0 v1 v2).d[q] = s.d[q] := by
  simp only [List.mem_cons, List.not_mem_nil, or_false, not_or] at h
  unfold State.setTriple
  rw [State.setX_d_other _ _ h.2.2, State.setX_d_other _ _ h.2.1, State.setX_d_other _ _ h.1]

@[simp] theorem State.countCommand_x (s : State) (r : Reg) : s.countCommand.x r = s.x r := by
  simp only [State.x_eq, State.countCommand_d]
@[simp] theorem State.countCommand_pid (s : State) (n : Inst) : s.countCommand.pid n = s.pid n := by
  cases n <;> rfl
@[simp] theorem State.pidCommit_x (s : State) (n : Inst) (t : PidTick) (r : Reg) :
    (s.pidCommit n t).x r = s.x r := by cases n <;> rfl
@[simp] theorem State.pidCommit_pid_same (s : State) (n : Inst) (t : PidTick) :
    (s.pidCommit n t).pid n = { s.pid n with integ := bits32 t.iacc, prev := bits32 t.err } := by
  cases n <;> rfl
theorem State.pidCommit_pid_other (s : State) {n m : Inst} (t : PidTick) (h : m ≠ n) :
    (s.pidCommit n t).pid m = s.pid m := by
  cases n <;> cases m <;> first | rfl | exact absurd rfl h
@[simp] theorem State.pidCommit_pid0_of_pid0 (s : State) (t : PidTick) :
    (s.pidCommit .pid0 t).pid0 = { s.pid0 with integ := bits32 t.iacc, prev := bits32 t.err } := rfl
@[simp] theorem State.pidCommit_pid1_of_pid1 (s : State) (t : PidTick) :
    (s.pidCommit .pid1 t).pid1 = { s.pid1 with integ := bits32 t.iacc, prev := bits32 t.err } := rfl
@[simp] theorem State.pidCommit_pid1_of_pid0 (s : State) (t : PidTick) :
    (s.pidCommit .pid0 t).pid1 = s.pid1 := rfl
@[simp] theorem State.pidCommit_pid0_of_pid1 (s : State) (t : PidTick) :
    (s.pidCommit .pid1 t).pid0 = s.pid0 := rfl
@[simp] theorem State.setPair_pid (s : State) (r : Reg) (v0 v1 : Int) (n : Inst) :
    (s.setPair r v0 v1).pid n = s.pid n := by cases n <;> rfl
@[simp] theorem State.setTriple_pid (s : State) (r : Reg) (v0 v1 v2 : Int) (n : Inst) :
    (s.setTriple r v0 v1 v2).pid n = s.pid n := by cases n <;> rfl
@[simp] theorem State.setX_pid (s : State) (r : Reg) (v : Int) (n : Inst) :
    (s.setX r v).pid n = s.pid n := by cases n <;> rfl

@[simp] theorem finish_ok (s t : State) : finish s (.ok t) = .next t.countCommand := rfl
@[simp] theorem finish_error (s : State) (c : Cause) : finish s (.error c) = .next (s.takeFault c) := rfl

/-- Everything ending a command can do: it answers a next state, which is the command's writes counted, or
the state before it with the fault record. -/
theorem finish_cases (s : State) (r : Except Cause State) :
    (∃ t, r = .ok t ∧ finish s r = .next t.countCommand) ∨
      (∃ c, r = .error c ∧ finish s r = .next (s.takeFault c)) := by
  cases r with
  | ok t => exact .inl ⟨t, rfl, rfl⟩
  | error c => exact .inr ⟨c, rfl, rfl⟩

/-- Everything a CMD write can do (R276): dropped, illegal, or executed. -/
theorem runCommand_cases (w : Word) (s : State) :
    (s.status.fault = true ∧ runCommand w s = .next { s.setCmd w with reply := .dropped }) ∨
      (s.status.fault = false ∧ (∃ why, decode w = .illegal why) ∧
        runCommand w s = .next ((s.setCmd w).takeFault .illegal).commandReply) ∨
      (s.status.fault = false ∧ ∃ i, decode w = .command i ∧
        runCommand w s = answerWith State.commandReply (exec i (s.setCmd w))) := by
  unfold runCommand
  cases hf : s.status.fault with
  | true => exact .inl ⟨rfl, rfl⟩
  | false =>
    cases hd : decode w with
    | illegal why => exact .inr (.inl ⟨rfl, ⟨why, rfl⟩, rfl⟩)
    | command i => exact .inr (.inr ⟨rfl, i, rfl, rfl⟩)

end Sys2Proof.Machine
end

