-- ==== Sys2Proof/Laws/Window.lean ====
section
/-! SUPPORT. The register window: which accesses are served, and what a served access can do. -/

namespace Sys2Proof.Machine

theorem windowMap_eq_none (k : Nat) : windowMap k = none ↔ 40 < k := by
  unfold windowMap
  constructor
  · intro h
    by_contra hk
    have : k ≤ 40 := by omega
    interval_cases k <;> simp [pidWindow] at h
  · intro h
    rw [if_neg (by omega), if_neg (by omega), if_neg (by omega), if_neg (by omega), if_neg (by omega)]

/-- An access reaches a register exactly when it is 32 bits wide, aligned and mapped (R71, R74, R75). -/
theorem target_ok_iff (off : Offset) (bytes : Nat) :
    (∃ r, target off bytes = .ok r) ↔ served off bytes = true := by
  unfold target served
  by_cases hb : bytes = 4
  · by_cases ha : off.toNat % 4 = 0
    · cases hm : windowMap (off.toNat / 4) with
      | some r =>
        have := (windowMap_eq_none (off.toNat / 4)).not.mp (by simp [hm])
        simp [hb, ha]; omega
      | none =>
        have := (windowMap_eq_none (off.toNat / 4)).mp hm
        simp [hb, ha]; omega
    · simp [hb, ha]
  · simp [hb]

/-- Data register D_i stands at offset 4i (R71, R72). -/
theorem windowMap_data (i : Reg) : windowMap i.val = some (.data i) := by
  revert i; decide

/-- A data register is at no other word of the window. -/
theorem windowMap_eq_data {k : Nat} {i : Reg} (h : windowMap k = some (.data i)) : k = i.val := by
  by_cases hk : 40 < k
  · rw [(windowMap_eq_none k).mpr hk] at h; cases h
  · have : k ≤ 40 := by omega
    interval_cases k <;> simp [windowMap, pidWindow] at h <;> rw [← h] <;> rfl

theorem windowMap_eq_integ {k : Nat} {n : Inst} (h : windowMap k = some (.pid n .integ)) :
    k = integWord n := by
  by_cases hk : 40 < k
  · rw [(windowMap_eq_none k).mpr hk] at h; cases h
  · have : k ≤ 40 := by omega
    interval_cases k <;> simp [windowMap, pidWindow] at h <;> subst h <;> rfl

theorem windowMap_eq_prev {k : Nat} {n : Inst} (h : windowMap k = some (.pid n .prev)) :
    k = prevWord n := by
  by_cases hk : 40 < k
  · rw [(windowMap_eq_none k).mpr hk] at h; cases h
  · have : k ≤ 40 := by omega
    interval_cases k <;> simp [windowMap, pidWindow] at h <;> subst h <;> rfl

theorem windowMap_eq_status {k : Nat} (h : windowMap k = some .status) : k = 17 := by
  by_cases hk : 40 < k
  · rw [(windowMap_eq_none k).mpr hk] at h; cases h
  · have : k ≤ 40 := by omega
    interval_cases k <;> simp [windowMap, pidWindow] at h
    rfl

/-- STATUS as a number: CMDCNT, CAUSE and FAULT at their places, the reserved bits 0 (R35). -/
theorem Status.word_toNat (t : Status) :
    t.word.toNat = t.cmdCnt.toNat * 2 ^ 16 + t.cause.toNat * 2 ^ 4 + t.fault.toNat := by
  obtain ⟨f, c, n⟩ := t
  have hc : c.toNat < 16 := c.isLt
  have e1 : n.toNat <<< 8 ||| 0 = n.toNat * 2 ^ 8 := by rw [Nat.or_zero, Nat.shiftLeft_eq]
  have e2 : (n.toNat * 2 ^ 8) <<< 4 ||| c.toNat = n.toNat * 2 ^ 12 + c.toNat := by
    rw [← Nat.shiftLeft_add_eq_or_of_lt (by omega), Nat.shiftLeft_eq]; omega
  have e3 : (n.toNat * 2 ^ 12 + c.toNat) <<< 3 ||| 0 = (n.toNat * 2 ^ 12 + c.toNat) * 2 ^ 3 := by
    rw [Nat.or_zero, Nat.shiftLeft_eq]
  have e4 : ((n.toNat * 2 ^ 12 + c.toNat) * 2 ^ 3) <<< 1 ||| f.toNat =
      (n.toNat * 2 ^ 12 + c.toNat) * 2 ^ 4 + f.toNat := by
    have : f.toNat < 2 ^ 1 := by cases f <;> decide
    rw [← Nat.shiftLeft_add_eq_or_of_lt this, Nat.shiftLeft_eq]; omega
  have : (Status.word ⟨f, c, n⟩).toNat = (n.toNat * 2 ^ 12 + c.toNat) * 2 ^ 4 + f.toNat := by
    unfold Status.word
    simp only [BitVec.toNat_append, BitVec.toNat_ofBool]
    change (((n.toNat <<< 8 ||| 0) <<< 4 ||| c.toNat) <<< 3 ||| 0) <<< 1 ||| f.toNat = _
    rw [e1, e2, e3, e4]
  rw [this]
  show _ = n.toNat * 2 ^ 16 + c.toNat * 2 ^ 4 + f.toNat
  omega

/-- Byte lane `j` of a word is its bits `[8j+7 : 8j]` (R73). -/
theorem wordLanes_get (w : Word) (j : Nat) (h : j < 4) : (wordLanes w)[j]? = some (w.extractLsb' (8 * j) 8) := by
  interval_cases j <;> rfl

/-- Everything a host action can do (R74 to R77, R300, R302). -/
theorem hostAction_cases (e : HostEvent) (s : State) :
    (∃ level, e = .resetLine level ∧ hostAction e s = .next (s.driveReset level)) ∨
      (s.inReset = true ∧ hostAction e s = .refused .accessInReset) ∨
      (∃ off bytes r, e = .read off bytes ∧ s.inReset = false ∧ target off bytes = .ok r ∧
        hostAction e s = .next { s with reply := .value (s.windowRead r) }) ∨
      (∃ off bytes r v, e = .write off bytes v ∧ s.inReset = false ∧ target off bytes = .ok r ∧
        hostAction e s = windowWrite r v s) ∨
      (∃ f, s.inReset = false ∧ hostAction e s = .fault f) := by
  cases e with
  | resetLine level => exact .inl ⟨level, rfl, rfl⟩
  | read off bytes =>
    cases hr : s.inReset with
    | true => exact .inr (.inl ⟨rfl, by simp [hostAction, hr]⟩)
    | false =>
      cases ht : target off bytes with
      | error f => exact .inr (.inr (.inr (.inr ⟨f, rfl, by simp [hostAction, hr, hostRead, ht]⟩)))
      | ok r =>
        exact .inr (.inr (.inl ⟨off, bytes, r, rfl, rfl, ht, by simp [hostAction, hr, hostRead, ht]⟩))
  | write off bytes v =>
    cases hr : s.inReset with
    | true => exact .inr (.inl ⟨rfl, by simp [hostAction, hr]⟩)
    | false =>
      cases ht : target off bytes with
      | error f => exact .inr (.inr (.inr (.inr ⟨f, rfl, by simp [hostAction, hr, hostWrite, ht]⟩)))
      | ok r =>
        exact .inr (.inr (.inr (.inl ⟨off, bytes, r, v, rfl, rfl, ht,
          by simp [hostAction, hr, hostWrite, ht]⟩)))

end Sys2Proof.Machine
end

