-- ==== Sys2Proof/Laws/Frame.lean ====
section
/-! SUPPORT. The frame of a completed command: its clause about the window's bytes follows from the clauses
about the fields, and each way of writing results meets it. -/

namespace Sys2Proof.Machine

/-- Lanes 0 and 1 of STATUS do not show CMDCNT (R35). -/
theorem status_low_lanes {a b : Status} (hf : b.fault = a.fault) (hc : b.cause = a.cause) {j : Nat}
    (h : j < 2) : (wordLanes b.word)[j]? = (wordLanes a.word)[j]? := by
  have hj : j < 4 := by omega
  rw [wordLanes_get _ _ hj, wordLanes_get _ _ hj]
  refine congrArg some (BitVec.eq_of_toNat_eq ?_)
  rw [BitVec.extractLsb'_toNat, BitVec.extractLsb'_toNat, Status.word_toNat, Status.word_toNat, hf, hc,
    Nat.shiftRight_eq_div_pow, Nat.shiftRight_eq_div_pow]
  interval_cases j <;> omega

/-- If all but the named registers of two states agree, all but their bytes in the window agree. -/
theorem windowByte_frame {dst : List Reg} {ticks : List Inst} {s t : State}
    (data : ∀ r, r ∉ dst → t.d[r] = s.d[r])
    (fault : t.status.fault = s.status.fault) (cause : t.status.cause = s.status.cause)
    (cmd : t.cmd = s.cmd) (faultCmd : t.faultCmd = s.faultCmd)
    (vsupMv : t.vsupMv = s.vsupMv) (vmaxMv : t.vmaxMv = s.vmaxMv)
    (vsupNorm : t.vsupNorm = s.vsupNorm) (resMohm : t.resMohm = s.resMohm)
    (gains : ∀ n, (t.pid n).kp = (s.pid n).kp ∧ (t.pid n).ki = (s.pid n).ki ∧
      (t.pid n).kd = (s.pid n).kd ∧ (t.pid n).kff = (s.pid n).kff ∧ (t.pid n).iclamp = (s.pid n).iclamp)
    (pidState : ∀ n, n ∉ ticks → (t.pid n).integ = (s.pid n).integ ∧ (t.pid n).prev = (s.pid n).prev)
    (off : Offset) (hd : off.toNat / 4 ∉ dst.map Fin.val)
    (hp : ∀ n ∈ ticks, off.toNat / 4 ≠ integWord n ∧ off.toNat / 4 ≠ prevWord n)
    (h46 : off.toNat ≠ 0x046) (h47 : off.toNat ≠ 0x047) : t.windowByte off = s.windowByte off := by
  unfold State.windowByte
  cases hm : windowMap (off.toNat / 4) with
  | none => rfl
  | some r =>
    dsimp only
    cases r with
    | data i =>
      have hi : i ∉ dst := fun hi => hd (by rw [windowMap_eq_data hm]; exact List.mem_map_of_mem hi)
      simp only [State.windowRead, data i hi]
    | status => exact status_low_lanes fault cause (by have := windowMap_eq_status hm; omega)
    | pid n f =>
      have key : (t.pid n).get f = (s.pid n).get f := by
        obtain ⟨g1, g2, g3, g4, g5⟩ := gains n
        cases f with
        | kp => exact g1
        | ki => exact g2
        | kd => exact g3
        | kff => exact g4
        | iclamp => exact g5
        | integ => exact (pidState n fun hn => (hp n hn).1 (windowMap_eq_integ hm)).1
        | prev => exact (pidState n fun hn => (hp n hn).2 (windowMap_eq_prev hm)).2
      simp only [State.windowRead, key]
    | cmd => simp only [State.windowRead, cmd]
    | faultCmd => simp only [State.windowRead, faultCmd]
    | vsupMv => simp only [State.windowRead, vsupMv]
    | vmaxMv => simp only [State.windowRead, vmaxMv]
    | vsupNorm => simp only [State.windowRead, vsupNorm]
    | resMohm => simp only [State.windowRead, resMohm]
    | id => rfl
    | reserved n => rfl
    | param => rfl

/-- A command whose writes change only data registers in `dst` meets the frame. -/
theorem completed_of_data {dst : List Reg} {s u : State} (data : ∀ r, r ∉ dst → u.d[r] = s.d[r])
    (rest : { u with d := s.d } = s) : Completed dst [] s u.countCommand := by
  obtain ⟨d, cmd, st, fc, a, b, c, e, p0, p1, ir, bus, rep⟩ := s
  obtain ⟨d', cmd', st', fc', a', b', c', e', p0', p1', ir', bus', rep'⟩ := u
  simp only [State.mk.injEq, true_and] at rest
  obtain ⟨rfl, rfl, rfl, rfl, rfl, rfl, rfl, rfl, rfl, rfl, rfl, rfl⟩ := rest
  refine ⟨data, rfl, rfl, rfl, rfl, rfl, rfl, rfl, rfl, rfl, ?_, ?_, rfl, rfl, rfl, ?_⟩
  · intro n; cases n <;> exact ⟨rfl, rfl, rfl, rfl, rfl⟩
  · intro n _; cases n <;> exact ⟨rfl, rfl⟩
  · refine windowByte_frame (ticks := []) data rfl rfl rfl rfl rfl rfl rfl rfl ?_ ?_
    · intro n; cases n <;> exact ⟨rfl, rfl, rfl, rfl, rfl⟩
    · intro n _; cases n <;> exact ⟨rfl, rfl⟩

theorem completed_setX (s : State) (r : Reg) (v : Int) : Completed [r] [] s (s.setX r v).countCommand :=
  completed_of_data (fun q hq => State.setX_d_other s v (by simpa using hq)) rfl

theorem completed_setPair (s : State) (r : Reg) (v0 v1 : Int) :
    Completed [r, r + 1] [] s (s.setPair r v0 v1).countCommand :=
  completed_of_data (fun _ hq => State.setPair_d_other s v0 v1 hq) rfl

theorem completed_setTriple (s : State) (r : Reg) (v0 v1 v2 : Int) :
    Completed [r, r + 1, r + 2] [] s (s.setTriple r v0 v1 v2).countCommand :=
  completed_of_data (fun _ hq => State.setTriple_d_other s v0 v1 v2 hq) rfl

/-- One more tick of an instance keeps the frame, with that instance among the ticked ones. -/
theorem completed_pidCommit {dst : List Reg} {ticks : List Inst} {s u : State}
    (h : Completed dst ticks s u.countCommand) (n : Inst) (t : PidTick) :
    Completed dst (ticks ++ [n]) s (u.pidCommit n t).countCommand := by
  have gains : ∀ m, ((u.pidCommit n t).countCommand.pid m).kp = (s.pid m).kp ∧
      ((u.pidCommit n t).countCommand.pid m).ki = (s.pid m).ki ∧
      ((u.pidCommit n t).countCommand.pid m).kd = (s.pid m).kd ∧
      ((u.pidCommit n t).countCommand.pid m).kff = (s.pid m).kff ∧
      ((u.pidCommit n t).countCommand.pid m).iclamp = (s.pid m).iclamp := by
    intro m
    have hm := h.gains m
    by_cases e : m = n
    · subst e; simpa using hm
    · simpa [State.pidCommit_pid_other u t e] using hm
  have pst : ∀ m, m ∉ ticks ++ [n] → ((u.pidCommit n t).countCommand.pid m).integ = (s.pid m).integ ∧
      ((u.pidCommit n t).countCommand.pid m).prev = (s.pid m).prev := by
    intro m hm
    simp only [List.mem_append, List.mem_singleton, not_or] at hm
    simpa [State.pidCommit_pid_other u t hm.2] using h.pidState m hm.1
  have data : ∀ r, r ∉ dst → (u.pidCommit n t).countCommand.d[r] = s.d[r] := fun r hr => by
    simpa using h.data r hr
  refine ⟨data, by simpa using h.count, by simpa using h.fault, by simpa using h.cause,
    by simpa using h.cmd, by simpa using h.faultCmd, by simpa using h.vsupMv, by simpa using h.vmaxMv,
    by simpa using h.vsupNorm, by simpa using h.resMohm, gains, pst, by simpa using h.inReset,
    by simpa using h.bus, by simpa using h.reply, ?_⟩
  exact windowByte_frame data (by simpa using h.fault) (by simpa using h.cause) (by simpa using h.cmd)
    (by simpa using h.faultCmd) (by simpa using h.vsupMv) (by simpa using h.vmaxMv)
    (by simpa using h.vsupNorm) (by simpa using h.resMohm) gains pst

end Sys2Proof.Machine
end

