-- ==== Sys2Proof/Laws/Control.lean ====
section
/-! SUPPORT. The controllers' shared functions in the vocabulary of the claims: what a PID evaluation computes,
when its checks pass, and everything `est_core` can answer. -/

namespace Sys2Proof.Machine

theorem sat32_saturated (v : Int) : sat32 v = saturated v := sat32_eq v

theorem normq_normalised (v d : Int) : normq v d = normalised v d := normq_eq v d

theorem pidCheck_iff (p : Pid) (limit : Int) :
    pidCheck p limit = true ↔ 0 ≤ limit ∧ 0 ≤ p.iclamp.toInt := by
  simp [pidCheck]

theorem feedbackReady_iff (s : State) : s.feedbackReady = true ↔ FeedbackPrecond s := by
  simp only [State.feedbackReady, Bool.and_eq_true, pidCheck_iff, FeedbackPrecond]
  tauto

theorem pidEval_err (p : Pid) (act ref ff limit : Int) : (pidEval p act ref ff limit).err = ref - act := rfl

theorem pidEval_iacc (p : Pid) (act ref ff limit : Int) (h : 0 ≤ p.iclamp.toInt) :
    (pidEval p act ref ff limit).iacc = accumulated p (ref - act) :=
  clamp_eq_max_min (by omega) _

theorem pidEval_out (p : Pid) (act ref ff limit : Int) (hl : 0 ≤ limit) (h : 0 ≤ p.iclamp.toInt) :
    (pidEval p act ref ff limit).out = controlOutput p (ref - act) ff limit := by
  have e : (pidEval p act ref ff limit).out =
      clamp (tdiv (p.kp.toInt * (ref - act)) 1000 +
        tdiv (p.ki.toInt * (pidEval p act ref ff limit).iacc) 1000 +
        tdiv (p.kd.toInt * ((ref - act) - p.prev.toInt)) 1000 + tdiv (p.kff.toInt * ff) 1000)
        (-limit) limit := rfl
  rw [e, pidEval_iacc p act ref ff limit h, clamp_eq_max_min (by omega)]
  rfl

/-- An accumulator lies within its bound, so it fits its register. -/
theorem accumulated_bounds (p : Pid) (e : Int) (h : 0 ≤ p.iclamp.toInt) :
    -p.iclamp.toInt ≤ accumulated p e ∧ accumulated p e ≤ p.iclamp.toInt := by
  unfold accumulated; omega

theorem controlOutput_bounds (p : Pid) (e ff limit : Int) (h : 0 ≤ limit) :
    -limit ≤ controlOutput p e ff limit ∧ controlOutput p e ff limit ≤ limit := by
  unfold controlOutput; omega

/-- The registers an update leaves in its instance. -/
theorem ticked_pidCommit (s : State) (n : Inst) (act ref ff limit : Int)
    (h : 0 ≤ (s.pid n).iclamp.toInt) (he : ErrorFits (ref - act)) :
    Ticked n (ref - act) s (s.pidCommit n (pidEval (s.pid n) act ref ff limit)) := by
  have hb := accumulated_bounds (s.pid n) (ref - act) h
  have hc := toInt_bounds (s.pid n).iclamp
  simp only [Ticked, State.pidCommit_pid_same, pidEval_iacc _ _ _ _ _ h, pidEval_err]
  obtain ⟨h1, h2⟩ := he
  exact ⟨toInt_bits32 (by omega) (by omega), toInt_bits32 (by omega) (by omega)⟩

/-- The registers both instances hold after the two commits of closed-loop EST and PIPE (R230). -/
theorem ticked_both (s u : State) (t0 t1 m0 m1 limit : Int)
    (c0 : 0 ≤ s.pid0.iclamp.toInt) (c1 : 0 ≤ s.pid1.iclamp.toInt)
    (e0 : ErrorFits (t0 - m0)) (e1 : ErrorFits (t1 - m1)) :
    Ticked .pid0 (t0 - m0) s (u.performCommits [(.pid0, pidEval s.pid0 m0 t0 0 limit),
      (.pid1, pidEval s.pid1 m1 t1 0 limit)]).countCommand ∧
    Ticked .pid1 (t1 - m1) s (u.performCommits [(.pid0, pidEval s.pid0 m0 t0 0 limit),
      (.pid1, pidEval s.pid1 m1 t1 0 limit)]).countCommand := by
  have a := ticked_pidCommit s .pid0 m0 t0 0 limit c0 e0
  have b := ticked_pidCommit s .pid1 m1 t1 0 limit c1 e1
  simp only [Ticked, State.pid_pid0, State.pid_pid1] at a b ⊢
  exact ⟨a, b⟩

/-- The frame of closed-loop EST and PIPE: a pair is written and both instances tick. -/
theorem completed_performCommits (s : State) (r : Reg) (v0 v1 : Int) (a b : PidTick) :
    Completed [r, r + 1] [.pid0, .pid1] s
      ((s.setPair r v0 v1).performCommits [(.pid0, a), (.pid1, b)]).countCommand := by
  simp only [State.performCommits]
  exact completed_pidCommit (completed_pidCommit (completed_setPair s r v0 v1) .pid0 a) .pid1 b

@[simp] theorem State.performCommits_x (s : State) (l : List (Inst × PidTick)) (r : Reg) :
    (s.performCommits l).x r = s.x r := by
  induction l generalizing s with
  | nil => rfl
  | cons a l ih => obtain ⟨n, t⟩ := a; simp only [State.performCommits, ih, State.pidCommit_x]

/-- PID whose checks pass (R203): the output and error are written and the instance takes the tick. -/
theorem execPid_complete (rd rs1 rs2 rs3 : Reg) (n : Inst) (s : State) (hl : 0 ≤ s.x (rs3 + 1))
    (hc : 0 ≤ (s.pid n).iclamp.toInt) (he : ErrorFits (s.x rs2 - s.x rs1)) :
    execPid rd rs1 rs2 rs3 n s = .next
      ((s.setPair rd (controlOutput (s.pid n) (s.x rs2 - s.x rs1) (s.x rs3) (s.x (rs3 + 1)))
        (s.x rs2 - s.x rs1)).pidCommit n
          (pidEval (s.pid n) (s.x rs1) (s.x rs2) (s.x rs3) (s.x (rs3 + 1)))).countCommand := by
  have h1 := (pidCheck_iff (s.pid n) (s.x (rs3 + 1))).mpr ⟨hl, hc⟩
  have h2 : fits32 (pidEval (s.pid n) (s.x rs1) (s.x rs2) (s.x rs3) (s.x (rs3 + 1))).err = true :=
    (fits32_iff _).mpr he
  unfold execPid
  dsimp only
  rw [if_neg (by simp [h1]), if_neg (by simp [h2]), pidEval_out _ _ _ _ _ hl hc, pidEval_err]
  rfl

/-- PID with a negative limit or bound faults PRECOND (R272). -/
theorem execPid_precond (rd rs1 rs2 rs3 : Reg) (n : Inst) (s : State)
    (h : s.x (rs3 + 1) < 0 ∨ (s.pid n).iclamp.toInt < 0) :
    execPid rd rs1 rs2 rs3 n s = .next (s.takeFault .precond) := by
  have h1 : pidCheck (s.pid n) (s.x (rs3 + 1)) = false := by
    rw [Bool.eq_false_iff, Ne, pidCheck_iff]; omega
  unfold execPid
  dsimp only
  rw [if_pos (by simp [h1])]
  rfl

/-- PID whose error does not fit faults RANGE (R273). -/
theorem execPid_range (rd rs1 rs2 rs3 : Reg) (n : Inst) (s : State) (hl : 0 ≤ s.x (rs3 + 1))
    (hc : 0 ≤ (s.pid n).iclamp.toInt) (he : ¬ErrorFits (s.x rs2 - s.x rs1)) :
    execPid rd rs1 rs2 rs3 n s = .next (s.takeFault .range) := by
  have h1 := (pidCheck_iff (s.pid n) (s.x (rs3 + 1))).mpr ⟨hl, hc⟩
  have h2 : fits32 (pidEval (s.pid n) (s.x rs1) (s.x rs2) (s.x rs3) (s.x (rs3 + 1))).err = false := by
    rw [Bool.eq_false_iff, Ne, fits32_iff]; exact he
  unfold execPid
  dsimp only
  rw [if_neg (by simp [h1]), if_pos (by simp [h2])]
  rfl

/-- Open loop, `est_core` answers the scaled products and no commits (R230). -/
theorem estCore_open (t0 t1 m0 m1 : Int) (s : State) :
    estCore false t0 t1 m0 m1 s =
      .ok ⟨openLoop t0 s.resMohm.toInt, openLoop t1 s.resMohm.toInt, []⟩ := rfl

/-- Everything closed-loop `est_core` can answer: PRECOND, then RANGE, then both ticks (R230). -/
theorem estCore_closed (t0 t1 m0 m1 : Int) (s : State) :
    (¬FeedbackPrecond s ∧ estCore true t0 t1 m0 m1 s = .error .precond) ∨
    (FeedbackPrecond s ∧ ¬(ErrorFits (t0 - m0) ∧ ErrorFits (t1 - m1)) ∧
      estCore true t0 t1 m0 m1 s = .error .range) ∨
    (FeedbackPrecond s ∧ ErrorFits (t0 - m0) ∧ ErrorFits (t1 - m1) ∧
      estCore true t0 t1 m0 m1 s =
        .ok ⟨controlOutput s.pid0 (t0 - m0) 0 s.vsupMv.toInt, controlOutput s.pid1 (t1 - m1) 0 s.vsupMv.toInt,
          [(.pid0, pidEval s.pid0 m0 t0 0 s.vsupMv.toInt), (.pid1, pidEval s.pid1 m1 t1 0 s.vsupMv.toInt)]⟩) := by
  by_cases hp : FeedbackPrecond s
  · have hr : s.feedbackReady = true := (feedbackReady_iff s).mpr hp
    obtain ⟨h0, h1, h2⟩ := hp
    by_cases he : ErrorFits (t0 - m0) ∧ ErrorFits (t1 - m1)
    · right; right
      refine ⟨⟨h0, h1, h2⟩, he.1, he.2, ?_⟩
      have f0 := (fits32_iff (t0 - m0)).mpr he.1
      have f1 := (fits32_iff (t1 - m1)).mpr he.2
      simp [estCore, hr, pidEval_err, f0, f1, pidEval_out _ _ _ _ _ h0 h1, pidEval_out _ _ _ _ _ h0 h2]
    · right; left
      refine ⟨⟨h0, h1, h2⟩, he, ?_⟩
      have : (fits32 (t0 - m0) && fits32 (t1 - m1)) = false := by
        rw [Bool.eq_false_iff, Ne, Bool.and_eq_true, fits32_iff, fits32_iff]; exact he
      simp [estCore, hr, pidEval_err, this]
  · left
    refine ⟨hp, ?_⟩
    have hr : s.feedbackReady = false := by
      rw [Bool.eq_false_iff, Ne, feedbackReady_iff]; exact hp
    simp [estCore, hr]

/-- Open-loop EST (R231). -/
theorem execEst_open (rd rs1 rs2 : Reg) (v : Bool) (s : State) :
    execEst rd rs1 rs2 ⟨v, false⟩ s = .next
      (s.setPair rd (openLoop (s.x rs1) s.resMohm.toInt) (openLoop (s.x (rs1 + 1)) s.resMohm.toInt)).countCommand :=
  rfl

/-- Everything closed-loop EST can do (R231): PRECOND, then RANGE, then both ticks. -/
theorem execEst_closed (rd rs1 rs2 : Reg) (v : Bool) (s : State) :
    (¬FeedbackPrecond s ∧ execEst rd rs1 rs2 ⟨v, true⟩ s = .next (s.takeFault .precond)) ∨
    (FeedbackPrecond s ∧ ¬(ErrorFits (s.x rs1 - s.x rs2) ∧ ErrorFits (s.x (rs1 + 1) - s.x (rs2 + 1))) ∧
      execEst rd rs1 rs2 ⟨v, true⟩ s = .next (s.takeFault .range)) ∨
    (FeedbackPrecond s ∧ ErrorFits (s.x rs1 - s.x rs2) ∧ ErrorFits (s.x (rs1 + 1) - s.x (rs2 + 1)) ∧
      execEst rd rs1 rs2 ⟨v, true⟩ s = .next
        ((s.setPair rd (controlOutput s.pid0 (s.x rs1 - s.x rs2) 0 s.vsupMv.toInt)
          (controlOutput s.pid1 (s.x (rs1 + 1) - s.x (rs2 + 1)) 0 s.vsupMv.toInt)).performCommits
            [(.pid0, pidEval s.pid0 (s.x rs2) (s.x rs1) 0 s.vsupMv.toInt),
             (.pid1, pidEval s.pid1 (s.x (rs2 + 1)) (s.x (rs1 + 1)) 0 s.vsupMv.toInt)]).countCommand) := by
  rcases estCore_closed (s.x rs1) (s.x (rs1 + 1)) (s.x rs2) (s.x (rs2 + 1)) s with
    ⟨h, e⟩ | ⟨h, h', e⟩ | ⟨h, h0, h1, e⟩
  · exact .inl ⟨h, by rw [execEst, e]; rfl⟩
  · exact .inr (.inl ⟨h, h', by rw [execEst, e]; rfl⟩)
  · exact .inr (.inr ⟨h, h0, h1, by rw [execEst, e]; rfl⟩)

/-- PIPE in voltage framing (R251). -/
theorem execPipe_voltage (rd rs1 rs2 rs3 : Reg) (c : Bool) (s : State) (h : s.vmaxMv.toInt ≠ 0) :
    execPipe rd rs1 rs2 rs3 ⟨true, c⟩ s = .next
      (s.setPair rd (normq (s.x rs3) s.vmaxMv.toInt) (normq (s.x (rs3 + 1)) s.vmaxMv.toInt)).countCommand := by
  simp only [execPipe, pipeVoltage, if_neg h, if_true, finish_ok]

/-- PIPE in voltage framing and open loop faults DIV0 when VMAX_MV = 0 (R251). -/
theorem execPipe_div0 (rd rs1 rs2 rs3 : Reg) (m : Mode) (s : State) (h : s.vmaxMv.toInt = 0)
    (hm : m.voltage = true ∨ m.closed = false ∨ FeedbackPrecond s) :
    execPipe rd rs1 rs2 rs3 m s = .next (s.takeFault .div0) := by
  obtain ⟨v, c⟩ := m
  cases v with
  | true => simp only [execPipe, pipeVoltage, if_pos h, if_true, finish_error]
  | false =>
    have hr : (c && !s.feedbackReady) = false := by
      rcases hm with hm | hm | hm
      · cases hm
      · simp only at hm; rw [hm]; rfl
      · rw [(feedbackReady_iff s).mpr hm]; simp
    simp only [execPipe, pipeCurrent, hr, Bool.false_eq_true, if_false, if_pos h, finish_error]

/-- PIPE in current framing, closed loop, faults PRECOND first (R251, R275). -/
theorem execPipe_precond (rd rs1 rs2 rs3 : Reg) (s : State) (h : ¬FeedbackPrecond s) :
    execPipe rd rs1 rs2 rs3 ⟨false, true⟩ s = .next (s.takeFault .precond) := by
  have hr : s.feedbackReady = false := by
    rw [Bool.eq_false_iff, Ne, feedbackReady_iff]; exact h
  simp only [execPipe, pipeCurrent, hr, Bool.false_eq_true, if_false, Bool.not_false, Bool.and_self, if_true,
    finish_error]

/-- Open-loop PIPE (R251). -/
theorem execPipe_open (rd rs1 rs2 rs3 : Reg) (s : State) (h : s.vmaxMv.toInt ≠ 0) :
    execPipe rd rs1 rs2 rs3 ⟨false, false⟩ s = .next
      (s.setPair rd
        (normq (openLoop (polarPair (s.angle rs1) (s.x (rs1 + 1))).1 s.resMohm.toInt) s.vmaxMv.toInt)
        (normq (openLoop (polarPair (s.angle rs1) (s.x (rs1 + 1))).2 s.resMohm.toInt)
          s.vmaxMv.toInt)).countCommand := by
  simp only [execPipe, pipeCurrent, Bool.false_and, Bool.false_eq_true, if_false, if_neg h, estCore_open]
  rfl

/-- Everything closed-loop PIPE can do past PRECOND and DIV0 (R251): RANGE, then both ticks. -/
theorem execPipe_closed (rd rs1 rs2 rs3 : Reg) (s : State) (hp : FeedbackPrecond s)
    (h : s.vmaxMv.toInt ≠ 0) :
    let c := polarPair (s.angle rs1) (s.x (rs1 + 1))
    (¬(ErrorFits (c.1 - s.x rs2) ∧ ErrorFits (c.2 - s.x (rs2 + 1))) ∧
      execPipe rd rs1 rs2 rs3 ⟨false, true⟩ s = .next (s.takeFault .range)) ∨
    (ErrorFits (c.1 - s.x rs2) ∧ ErrorFits (c.2 - s.x (rs2 + 1)) ∧
      execPipe rd rs1 rs2 rs3 ⟨false, true⟩ s = .next
        ((s.setPair rd
          (normq (controlOutput s.pid0 (c.1 - s.x rs2) 0 s.vsupMv.toInt) s.vmaxMv.toInt)
          (normq (controlOutput s.pid1 (c.2 - s.x (rs2 + 1)) 0 s.vsupMv.toInt) s.vmaxMv.toInt)).performCommits
            [(.pid0, pidEval s.pid0 (s.x rs2) c.1 0 s.vsupMv.toInt),
             (.pid1, pidEval s.pid1 (s.x (rs2 + 1)) c.2 0 s.vsupMv.toInt)]).countCommand) := by
  intro c
  have hr := (feedbackReady_iff s).mpr hp
  have key : execPipe rd rs1 rs2 rs3 ⟨false, true⟩ s = finish s
      ((estCore true c.1 c.2 (s.x rs2) (s.x (rs2 + 1)) s).map fun v =>
        (s.setPair rd (normq v.v0 s.vmaxMv.toInt) (normq v.v1 s.vmaxMv.toInt)).performCommits v.commits) := by
    simp only [execPipe, pipeCurrent, hr, Bool.false_eq_true, if_false, Bool.not_true, Bool.and_false, if_neg h, c]
  rcases estCore_closed c.1 c.2 (s.x rs2) (s.x (rs2 + 1)) s with ⟨h', _⟩ | ⟨_, h', e⟩ | ⟨_, h0, h1, e⟩
  · exact absurd hp h'
  · exact .inl ⟨h', by rw [key, e]; rfl⟩
  · exact .inr ⟨h0, h1, by rw [key, e]; rfl⟩

end Sys2Proof.Machine
end

