-- ==== Sys2Proof/Laws/PerInstr.lean ====
section
/-! SUPPORT. One fact for every command: the fields read from a command's word are the fields it was
encoded from (R100, R102), so no bit of an operand is lost. -/

namespace Sys2Proof

/-- The fields read back from a CMD32 word are the ones it was made from (R100). -/
theorem Cmd32.ofWord_toWord (c : Cmd32) : Cmd32.ofWord c.toWord = c := by
  obtain ⟨⟨opc, h0⟩, ⟨rd, h1⟩, ⟨rs1, h2⟩, ⟨rs2, h3⟩, ⟨rs3, h4⟩, ⟨mode, h5⟩, ⟨inst, h6⟩, ⟨rsv, h7⟩⟩ := c
  simp only [Cmd32.ofWord, Cmd32.toWord, bitField, BitVec.toNat_ofNat, Cmd32.mk.injEq, Fin.ext_iff,
    Fin.ofNat]
  refine ⟨?_, ?_, ?_, ?_, ?_, ?_, ?_, ?_⟩ <;> omega

namespace Laws.FieldsSurvive

/-- The fields of a command survive its encoding. -/
def Statement (i : Instr) : Prop := Cmd32.ofWord (encode i) = i.fields

theorem sat16 (rd rs1 : Reg) : Statement (.sat16 rd rs1) := Cmd32.ofWord_toWord _
theorem scale (rd rs1 rs2 rs3 : Reg) : Statement (.scale rd rs1 rs2 rs3) := Cmd32.ofWord_toWord _
theorem norm (rd rs1 rs2 : Reg) : Statement (.norm rd rs1 rs2) := Cmd32.ofWord_toWord _
theorem sincos (rd rs1 : Reg) : Statement (.sincos rd rs1) := Cmd32.ofWord_toWord _
theorem polar (rd rs1 rs2 : Reg) : Statement (.polar rd rs1 rs2) := Cmd32.ofWord_toWord _
theorem vrot (rd rs1 rs2 : Reg) : Statement (.vrot rd rs1 rs2) := Cmd32.ofWord_toWord _
theorem clarke (rd rs1 rs2 : Reg) : Statement (.clarke rd rs1 rs2) := Cmd32.ofWord_toWord _
theorem svc (rd rs1 rs2 : Reg) : Statement (.svc rd rs1 rs2) := Cmd32.ofWord_toWord _
theorem pid (rd rs1 rs2 rs3 : Reg) (n : Inst) : Statement (.pid rd rs1 rs2 rs3 n) := Cmd32.ofWord_toWord _
theorem est (rd rs1 rs2 : Reg) (m : Mode) : Statement (.est rd rs1 rs2 m) := Cmd32.ofWord_toWord _
theorem pipe (rd rs1 rs2 rs3 : Reg) (m : Mode) : Statement (.pipe rd rs1 rs2 rs3 m) :=
  Cmd32.ofWord_toWord _

end Laws.FieldsSurvive

end Sys2Proof
end

