-- ==== Sys2Proof/Laws/Decode.lean ====
section
/-! SUPPORT. Decoding and encoding field by field: codes and their meanings, words and their fields, and what
an accepted command says of its fields. -/

namespace Sys2Proof

theorem Mode.ofCode_code (m : Mode) : Mode.ofCode m.code = m := by
  obtain ⟨a, b⟩ := m; cases a <;> cases b <;> decide

theorem Mode.code_ofCode (m : Fin 4) : (Mode.ofCode m).code = m := by revert m; decide

theorem Inst.ofCode_code (n : Inst) : Inst.ofCode n.code = n := by cases n <;> decide

theorem Inst.code_ofCode (b : Fin 2) : (Inst.ofCode b).code = b := by revert b; decide

/-- The MODE field as a number (R104). -/
theorem Mode.code_val (m : Mode) :
    m.code.val = (if m.voltage then 2 else 0) + (if m.closed then 1 else 0) := by
  obtain ⟨a, b⟩ := m; cases a <;> cases b <;> decide

/-- The INST field as a number (R106). -/
theorem Inst.code_val (n : Inst) : n.code.val = if n = .pid1 then 1 else 0 := by cases n <;> decide

/-- A 32-bit number is the sum of its CMD32 fields at their places (R100). -/
theorem sum_of_fields (n : Nat) (h : n < 4294967296) :
    n / 67108864 % 64 * 67108864 + n / 4194304 % 16 * 4194304 + n / 262144 % 16 * 262144 +
      n / 16384 % 16 * 16384 + n / 1024 % 16 * 1024 + n / 256 % 4 * 256 + n / 128 % 2 * 128 + n % 128 = n := by
  have h1 := @Nat.mod_mul 128 2 n
  have h2 := @Nat.mod_mul 256 4 n
  have h3 := @Nat.mod_mul 1024 16 n
  have h4 := @Nat.mod_mul 16384 16 n
  have h5 := @Nat.mod_mul 262144 16 n
  have h6 := @Nat.mod_mul 4194304 16 n
  have h7 := @Nat.mod_mul 67108864 64 n
  have e : n % 4294967296 = n := Nat.mod_eq_of_lt h
  simp only [Nat.reduceMul] at h1 h2 h3 h4 h5 h6 h7
  rw [e] at h7
  linarith

/-- A word is made of its fields: none of its bits lies outside them (R100). -/
theorem Cmd32.toWord_ofWord (w : Word) : (Cmd32.ofWord w).toWord = w := by
  apply BitVec.eq_of_toNat_eq
  have := sum_of_fields w.toNat w.isLt
  simp only [Cmd32.ofWord, Cmd32.toWord, bitField, BitVec.toNat_ofNat, Fin.ofNat, Nat.reducePow,
    Nat.mod_mod, Nat.div_one]
  rw [this]
  exact Nat.mod_eq_of_lt w.isLt

/-- The word of fields as a number (R100). -/
theorem Cmd32.toWord_toNat (c : Cmd32) : c.toWord.toNat =
    c.opc.val * 2 ^ 26 + c.rd.val * 2 ^ 22 + c.rs1.val * 2 ^ 18 + c.rs2.val * 2 ^ 14 + c.rs3.val * 2 ^ 10 +
      c.mode.val * 2 ^ 8 + c.inst.val * 2 ^ 7 + c.rsv.val := by
  have h0 := c.opc.isLt
  have h1 := c.rd.isLt
  have h2 := c.rs1.isLt
  have h3 := c.rs2.isLt
  have h4 := c.rs3.isLt
  have h5 := c.mode.isLt
  have h6 := c.inst.isLt
  have h7 := c.rsv.isLt
  unfold Cmd32.toWord
  rw [BitVec.toNat_ofNat]
  exact Nat.mod_eq_of_lt (by omega)

/-- The word of a command as a number, from the numbers its fields hold (R100, R102). -/
theorem encode_toNat_of_fields {i : Instr} {opc rd rs1 rs2 rs3 mode inst : Nat}
    (h0 : i.fields.opc.val = opc) (h1 : i.fields.rd.val = rd) (h2 : i.fields.rs1.val = rs1)
    (h3 : i.fields.rs2.val = rs2) (h4 : i.fields.rs3.val = rs3) (h5 : i.fields.mode.val = mode)
    (h6 : i.fields.inst.val = inst) (h7 : i.fields.rsv.val = 0) :
    (encode i).toNat = opc * 2 ^ 26 + rd * 2 ^ 22 + rs1 * 2 ^ 18 + rs2 * 2 ^ 14 + rs3 * 2 ^ 10 + mode * 2 ^ 8 +
      inst * 2 ^ 7 := by
  rw [encode, Cmd32.toWord_toNat, h0, h1, h2, h3, h4, h5, h6, h7]
  omega

/-- If fields required to be 0 let a command through, they are 0 and it is that command (R102). -/
theorem requireZero_command {l : List (Nat × Illegal)} {i j : Instr} (h : requireZero l i = .command j) :
    i = j ∧ ∀ p ∈ l, p.1 = 0 := by
  induction l with
  | nil => exact ⟨by simpa [requireZero] using h, by simp⟩
  | cons a l ih =>
    obtain ⟨v, why⟩ := a
    simp only [requireZero] at h
    split at h
    · obtain ⟨h1, h2⟩ := ih h
      exact ⟨h1, by simpa using ⟨‹v = 0›, by simpa using h2⟩⟩
    · cases h

/-- If one of the fields required to be 0 is not, there is no command (R103). -/
theorem requireZero_illegal {l : List (Nat × Illegal)} {p : Nat × Illegal} (hp : p ∈ l) (h : p.1 ≠ 0)
    (i : Instr) : ∃ why, requireZero l i = .illegal why := by
  induction l with
  | nil => cases hp
  | cons a l ih =>
    obtain ⟨v, why⟩ := a
    simp only [requireZero]
    by_cases hv : v = 0
    · rw [if_pos hv]
      rcases List.mem_cons.mp hp with rfl | hm
      · exact absurd hv h
      · exact ih hm
    · exact ⟨why, if_neg hv⟩

end Sys2Proof
end

