-- ==== Sys2Proof/Laws/SineGrid.lean ====
section
/-! SUPPORT. Real sines at the table's grid, as exact integers: `gridPoint k` is (cos, sin) of `pi * k / 512` in
units of 10^-15, by repeated rotation, and `gridPoint_close` bounds its error. It lets a statement about the
real sine (R140, R143) be settled by integer arithmetic. Nothing of the model is used here. -/

namespace Sys2Proof.Laws

/-- (cos, sin) of `pi / 512` in units of 10^-15. -/
def gridUnit : Int × Int := (999981175282601, 6135884649154)

/-- (cos, sin) of `pi * k / 512` in units of 10^-15, rounded down at each rotation. -/
def gridPoint : Nat → Int × Int
  | 0 => (10 ^ 15, 0)
  | k + 1 =>
    let z := gridPoint k
    ((z.1 * gridUnit.1 - z.2 * gridUnit.2) / 10 ^ 15, (z.1 * gridUnit.2 + z.2 * gridUnit.1) / 10 ^ 15)

/-- The complex number a scaled pair stands for. -/
noncomputable def ofScaled (z : Int × Int) : ℂ := ⟨(z.1 : ℝ) / 10 ^ 15, (z.2 : ℝ) / 10 ^ 15⟩

/-- The point of the unit circle at `pi * k / 512`. -/
noncomputable def onCircle (k : Nat) : ℂ := ⟨Real.cos (Real.pi * k / 512), Real.sin (Real.pi * k / 512)⟩

theorem norm_le_of_parts (z : ℂ) {a : ℝ} (ha : 0 ≤ a) (h1 : |z.re| ≤ a) (h2 : |z.im| ≤ a) :
    ‖z‖ ≤ 3 / 2 * a := by
  rw [Complex.norm_def, Complex.normSq_apply]
  have := abs_le.mp h1
  have := abs_le.mp h2
  exact Real.sqrt_le_iff.mpr ⟨by positivity, by nlinarith⟩

/-- The cubic bounds a sine for an argument known to lie in (l, u). -/
theorem sin_between {x l u : ℝ} (h0 : 0 < l) (hl : l < x) (hu : x < u) (h1 : u ≤ 1) :
    l - u ^ 3 / 6 - u ^ 5 / 100 ≤ Real.sin x ∧ Real.sin x ≤ u - l ^ 3 / 6 + u ^ 5 / 100 := by
  have hx : 0 ≤ x := h0.le.trans hl.le
  have hs := abs_le.mp (Real.sin_bound (x := x) (by rw [abs_of_nonneg hx]; linarith))
  rw [abs_of_nonneg hx] at hs
  have x3l : l ^ 3 ≤ x ^ 3 := by gcongr
  have x3u : x ^ 3 ≤ u ^ 3 := by gcongr
  have x5u : x ^ 5 ≤ u ^ 5 := by gcongr
  constructor <;> linarith

/-- The unit rotation is exact to 3 in 10^13. -/
theorem gridUnit_close :
    ‖(⟨Real.cos (Real.pi / 512), Real.sin (Real.pi / 512)⟩ : ℂ) - ofScaled gridUnit‖ ≤ 3 / 10 ^ 13 := by
  have h1 := Real.pi_gt_d20
  have h2 := Real.pi_lt_d20
  have s1 := sin_between (x := Real.pi / 512) (l := 0.0061359231515425649) (u := 0.0061359231515425650)
    (by norm_num) (by linarith) (by linarith) (by norm_num)
  have s2 := sin_between (x := Real.pi / 1024) (l := 0.00306796157577128) (u := 0.00306796157577129)
    (by norm_num) (by linarith) (by linarith) (by norm_num)
  have c : Real.cos (Real.pi / 512) = 1 - 2 * Real.sin (Real.pi / 1024) ^ 2 := by
    rw [show Real.pi / 512 = 2 * (Real.pi / 1024) by ring, Real.cos_two_mul, Real.cos_sq']; ring
  have lo : 0.00306795676296 ≤ Real.sin (Real.pi / 1024) := by norm_num at s2 ⊢; linarith
  have hi : Real.sin (Real.pi / 1024) ≤ 0.00306795676297 := by norm_num at s2 ⊢; linarith
  have pos : 0 ≤ Real.sin (Real.pi / 1024) := by norm_num at lo; linarith
  have q : 0.00306795676296 ^ 2 ≤ Real.sin (Real.pi / 1024) ^ 2 := by gcongr
  have q' : Real.sin (Real.pi / 1024) ^ 2 ≤ 0.00306795676297 ^ 2 := by gcongr
  refine (norm_le_of_parts _ (a := 2 / 10 ^ 13) (by norm_num) ?_ ?_).trans (by norm_num)
  · simp only [Complex.sub_re, ofScaled, gridUnit, c]
    rw [abs_le]; constructor <;> norm_num at * <;> linarith
  · simp only [Complex.sub_im, ofScaled, gridUnit]
    rw [abs_le]; constructor <;> norm_num at * <;> linarith

theorem floor_error (a : Int) :
    |((a / 10 ^ 15 : Int) : ℝ) / 10 ^ 15 - (a : ℝ) / 10 ^ 15 / 10 ^ 15| ≤ 1 / 10 ^ 15 := by
  have h1 : (a / 10 ^ 15 : Int) * 10 ^ 15 ≤ a := by omega
  have h2 : a < (a / 10 ^ 15 : Int) * 10 ^ 15 + 10 ^ 15 := by omega
  have h1 : ((a / 10 ^ 15 : Int) : ℝ) * 10 ^ 15 ≤ a := by exact_mod_cast h1
  have h2 : (a : ℝ) < ((a / 10 ^ 15 : Int) : ℝ) * 10 ^ 15 + 10 ^ 15 := by exact_mod_cast h2
  generalize ((a / 10 ^ 15 : Int) : ℝ) = q at *
  rw [abs_le]; constructor <;> linarith

/-- One step of the grid is a rotation but for the rounding. -/
theorem gridPoint_succ_close (k : Nat) :
    ‖ofScaled (gridPoint (k + 1)) - ofScaled (gridPoint k) * ofScaled gridUnit‖ ≤ 2 / 10 ^ 15 := by
  refine (norm_le_of_parts _ (a := 1 / 10 ^ 15) (by norm_num) ?_ ?_).trans (by norm_num)
  · have := floor_error ((gridPoint k).1 * gridUnit.1 - (gridPoint k).2 * gridUnit.2)
    simp only [Complex.sub_re, Complex.mul_re, ofScaled, gridPoint]
    convert this using 2; push_cast; ring
  · have := floor_error ((gridPoint k).1 * gridUnit.2 + (gridPoint k).2 * gridUnit.1)
    simp only [Complex.sub_im, Complex.mul_im, ofScaled, gridPoint]
    convert this using 2; push_cast; ring

theorem onCircle_succ (k : Nat) :
    onCircle (k + 1) = onCircle k * ⟨Real.cos (Real.pi / 512), Real.sin (Real.pi / 512)⟩ := by
  have : Real.pi * ((k + 1 : Nat) : ℝ) / 512 = Real.pi * k / 512 + Real.pi / 512 := by push_cast; ring
  apply Complex.ext
  · simp only [onCircle, this, Complex.mul_re, Real.cos_add]
  · simp only [onCircle, this, Complex.mul_im, Real.sin_add]; ring

theorem norm_onCircle (k : Nat) : ‖onCircle k‖ = 1 := by
  have h : Real.cos (Real.pi * k / 512) * Real.cos (Real.pi * k / 512) +
      Real.sin (Real.pi * k / 512) * Real.sin (Real.pi * k / 512) = 1 := by
    nlinarith [Real.sin_sq_add_cos_sq (Real.pi * k / 512)]
  rw [Complex.norm_def, Complex.normSq_apply, onCircle, h, Real.sqrt_one]

theorem norm_gridUnit : ‖ofScaled gridUnit‖ ≤ 1 := by
  rw [Complex.norm_def, Complex.normSq_apply, Real.sqrt_le_one]
  simp only [ofScaled, gridUnit]; norm_num

/-- A grid point is within k parts in 10^12 of the real one. -/
theorem gridPoint_close (k : Nat) : ‖onCircle k - ofScaled (gridPoint k)‖ ≤ k * (1 / 10 ^ 12) := by
  induction k with
  | zero => simp [onCircle, ofScaled, gridPoint, Complex.ext_iff]; norm_num
  | succ k ih =>
    have e : onCircle (k + 1) - ofScaled (gridPoint (k + 1)) =
        onCircle k * ((⟨Real.cos (Real.pi / 512), Real.sin (Real.pi / 512)⟩ : ℂ) - ofScaled gridUnit) +
          (onCircle k - ofScaled (gridPoint k)) * ofScaled gridUnit -
          (ofScaled (gridPoint (k + 1)) - ofScaled (gridPoint k) * ofScaled gridUnit) := by
      rw [onCircle_succ]; ring
    have a1 := norm_add_le
      (onCircle k * ((⟨Real.cos (Real.pi / 512), Real.sin (Real.pi / 512)⟩ : ℂ) - ofScaled gridUnit))
      ((onCircle k - ofScaled (gridPoint k)) * ofScaled gridUnit)
    rw [norm_mul, norm_mul, norm_onCircle] at a1
    have a2 := gridPoint_succ_close k
    have a3 := gridUnit_close
    have a4 : ‖onCircle k - ofScaled (gridPoint k)‖ * ‖ofScaled gridUnit‖ ≤
        ‖onCircle k - ofScaled (gridPoint k)‖ := mul_le_of_le_one_right (norm_nonneg _) norm_gridUnit
    rw [e]
    refine (norm_sub_le _ _).trans ?_
    push_cast
    linarith

/-- The sine at a grid point, for the table's quarter wave, within 10^-9. -/
theorem sin_grid_close {k : Nat} (h : k ≤ 256) :
    |Real.sin (Real.pi * k / 512) - ((gridPoint k).2 : ℝ) / 10 ^ 15| ≤ 1 / 10 ^ 9 := by
  have h1 := (Complex.abs_im_le_norm _).trans (gridPoint_close k)
  simp only [Complex.sub_im, onCircle, ofScaled] at h1
  have hk : (k : ℝ) ≤ 256 := by exact_mod_cast h
  exact h1.trans (by linarith)

end Sys2Proof.Laws
end

