-- ==== Sys2Proof/Laws/Step.lean ====
section
/-! SUPPORT. Everything one step of the machine can do, said once: the cases of a step that answers a next
state, and the step that a CMD write is. -/

namespace Sys2Proof.Machine

/-- CMD stands at offset 0x040 only, and is reached by 32-bit accesses only (R71, R74). -/
theorem target_eq_cmd {off : Offset} {bytes : Nat} (h : target off bytes = .ok .cmd) :
    off = 0x040 ∧ bytes = 4 := by
  obtain ⟨hb, ha, -⟩ : bytes = 4 ∧ off.toNat % 4 = 0 ∧ off.toNat < 0x0A4 := by
    simpa [served, and_assoc] using (target_ok_iff off bytes).mp ⟨_, h⟩
  refine ⟨BitVec.eq_of_toNat_eq ?_, hb⟩
  have hm : windowMap (off.toNat / 4) = some .cmd := by
    cases hm : windowMap (off.toNat / 4) with
    | none => simp [target, hb, ha, hm] at h
    | some r => simpa [target, hb, ha, hm] using h
  have hk : ¬40 < off.toNat / 4 := fun hk => by rw [(windowMap_eq_none _).mpr hk] at hm; cases hm
  have : off.toNat / 4 = 16 := by
    generalize off.toNat / 4 = k at hm hk
    have : k ≤ 40 := by omega
    interval_cases k <;> first | rfl | simp [windowMap, pidWindow] at hm
  change off.toNat = 64
  omega

/-- A pending CMD write is the next step's work (R276). -/
theorem step_cmdWrite {s : State} {w : Word} {rest : List HostEvent}
    (hb : s.bus = .write 0x040 4 w :: rest) (hr : s.inReset = false) :
    step s = runCommand w { s with bus := rest } := by
  have e : hostWrite 0x040 4 w { s with bus := rest } = runCommand w { s with bus := rest } := rfl
  have hr' : ¬(({ s with bus := rest } : State).inReset = true) := by simp [hr]
  rw [step, hb, ← e]
  exact if_neg hr'

/-- Everything a step that answers a next state did: nothing, with no action pending; the reset input; a
read; a write that stores; or a CMD write. -/
theorem step_cases {s t : State} (h : step s = .next t) :
    (s.bus = [] ∧ t = s.idle) ∨
    (∃ level rest, s.bus = .resetLine level :: rest ∧ t = State.driveReset { s with bus := rest } level) ∨
    (∃ off bytes r rest, s.bus = .read off bytes :: rest ∧ s.inReset = false ∧ target off bytes = .ok r ∧
      t = { s with bus := rest, reply := .value (s.windowRead r) }) ∨
    (∃ off bytes v r rest, s.bus = .write off bytes v :: rest ∧ s.inReset = false ∧
      target off bytes = .ok r ∧ r ≠ .cmd ∧
      t = { State.windowStore { s with bus := rest } r v with reply := .written }) ∨
    (∃ w rest, s.bus = .write 0x040 4 w :: rest ∧ s.inReset = false ∧
      runCommand w { s with bus := rest } = .next t) := by
  cases hb : s.bus with
  | nil => exact .inl ⟨rfl, by simpa [step, hb] using h.symm⟩
  | cons e rest =>
    right
    rw [step, hb] at h
    rcases hostAction_cases e { s with bus := rest } with ⟨l, rfl, e'⟩ | ⟨_, e'⟩ |
      ⟨off, b, r, rfl, hr, ht, e'⟩ | ⟨off, b, r, v, rfl, hr, ht, e'⟩ | ⟨f, _, e'⟩ <;> simp only [e'] at h
    · exact .inl ⟨l, rest, rfl, (Host.Outcome.next.inj h).symm⟩
    · cases h
    · refine .inr (.inl ⟨off, b, r, rest, rfl, hr, ht, ?_⟩)
      rw [← Host.Outcome.next.inj h]
      cases r <;> rfl
    · right; right
      by_cases hc : r = .cmd
      · subst hc
        obtain ⟨rfl, rfl⟩ := target_eq_cmd ht
        exact .inr ⟨v, rest, rfl, hr, h⟩
      · refine .inl ⟨off, b, v, r, rest, rfl, hr, ht, hc, ?_⟩
        cases r with
        | cmd => exact absurd rfl hc
        | _ => exact (Host.Outcome.next.inj h).symm
    · cases h

end Sys2Proof.Machine
end

