-- ==== Sys2Proof/Tests/Slice0.lean ====
section
/-! SUPPORT. The model's own tests. Expected results are the spec's: V-* names a vector and P1 to P5 a program
of 95_test_vectors.md, or a rule is named. Then, for every obligation with hypotheses, a witness that meets
them. -/

namespace Sys2Proof.Tests

open Sys2Proof Sys2Proof.Machine

/-! ## Helpers -/

/-- `s` with the values written to D_i, D_(i+1), and so on. -/
def put (s : State) (i : Reg) : List Int → State
  | [] => s
  | v :: rest => put (s.setX i v) (i + 1) rest

/-- The reset state with the given values in D0, D1, and so on. -/
def regs (l : List Int) : State := put State.reset 0 l

/-- `s` with the given host actions pending. -/
def host (s : State) (l : List HostEvent) : State := { s with bus := l }

/-- A PID instance with the given gains and integral bound, and no history. -/
def gains (kp ki kd kff iclamp : Int) : Pid := ⟨bits32 kp, bits32 ki, bits32 kd, bits32 kff, bits32 iclamp, 0, 0⟩

abbrev Answer := Host.Outcome State Fault Refusal

/-- The next state of an outcome; the reset state where there is none. -/
def got : Answer → State
  | .next t => t
  | .fault _ => State.reset
  | .refused _ => State.reset

def isNext : Answer → Bool
  | .next _ => true
  | .fault _ => false
  | .refused _ => false

theorem eq_next {o : Answer} (h : isNext o = true) : o = .next (got o) := by
  cases o with
  | next t => rfl
  | fault e => cases h
  | refused e => cases h

/-- What a command completed with: the registers listed, where it counted; nothing where it did not. -/
def results (i : Instr) (s : State) (rs : List Reg) : List Int :=
  let t := got (exec i s)
  if t.status.cmdCnt = s.status.cmdCnt + 1 then rs.map t.x else []

/-- INTEG and PREV of an instance after a command. -/
def history (i : Instr) (s : State) (n : Inst) : List Int :=
  let p := (got (exec i s)).pid n
  [p.integ.toInt, p.prev.toInt]

/-- STATUS after a command, as the host reads it, where the command changed nothing but the fault record. -/
def faultStatus (i : Instr) (s : State) : Option Word :=
  let t := got (exec i s)
  if { t with status := s.status, faultCmd := s.faultCmd } = s then some t.status.word else none

/-- The state after the pending host actions, one step each. -/
def runHost : Nat → State → State
  | 0, s => s
  | k + 1, s => runHost k (got (step s))

/-! ## Well-formed words: each check refuses an ill-formed word (R103, V-DEC-4 to V-DEC-13) -/

theorem test_ill_opc_zero : wordWellFormed 0x00000000 = false ∧ decode 0x00000000 = .illegal .opcode := by
  decide
theorem test_ill_opc_first_reserved :
    wordWellFormed 0x30000000 = false ∧ decode 0x30000000 = .illegal .opcode := by decide
theorem test_ill_opc_last_reserved :
    wordWellFormed 0xFC000000 = false ∧ decode 0xFC000000 = .illegal .opcode := by decide
theorem test_ill_rsv : wordWellFormed 0x10000001 = false ∧ decode 0x10000001 = .illegal .reserved := by decide
theorem test_ill_rs2 : wordWellFormed 0x10004000 = false ∧ decode 0x10004000 = .illegal .rs2 := by decide
theorem test_ill_rs3 : wordWellFormed 0x28000400 = false ∧ decode 0x28000400 = .illegal .rs3 := by decide
theorem test_ill_mode : wordWellFormed 0x24000100 = false ∧ decode 0x24000100 = .illegal .mode := by decide
theorem test_ill_inst_est : wordWellFormed 0x28000080 = false ∧ decode 0x28000080 = .illegal .inst := by decide
theorem test_ill_inst_pipe : wordWellFormed 0x2C000080 = false ∧ decode 0x2C000080 = .illegal .inst := by decide
theorem test_ill_inst_sat16 : wordWellFormed 0x04000080 = false ∧ decode 0x04000080 = .illegal .inst := by
  decide

/-! ## Decoding: words written out field by field from R100 and R102: OPC RD RS1 RS2 RS3 MODE INST RSV -/

theorem test_decode_sat16 : decode 0b000001_1011_0010_0000_0000_00_0_0000000 = .command (.sat16 11 2) := by
  decide
theorem test_decode_scale : decode 0b000010_1010_1000_0001_0101_00_0_0000000 = .command (.scale 10 8 1 5) := by
  decide
theorem test_decode_norm : decode 0b000011_1001_0110_0101_0000_00_0_0000000 = .command (.norm 9 6 5) := by
  decide
theorem test_decode_sincos : decode 0b000100_0010_0000_0000_0000_00_0_0000000 = .command (.sincos 2 0) := by
  decide
theorem test_decode_polar : decode 0b000101_0100_0000_0001_0000_00_0_0000000 = .command (.polar 4 0 1) := by
  decide
theorem test_decode_vrot : decode 0b000110_0110_0100_0111_0000_00_0_0000000 = .command (.vrot 6 4 7) := by
  decide
theorem test_decode_clarke : decode 0b000111_0010_0000_0001_0000_00_0_0000000 = .command (.clarke 2 0 1) := by
  decide
theorem test_decode_svc : decode 0b001000_0110_0010_0101_0000_00_0_0000000 = .command (.svc 6 2 5) := by
  decide
theorem test_decode_pid : decode 0b001001_0100_0000_0001_0010_00_1_0000000 = .command (.pid 4 0 1 2 .pid1) := by
  decide
theorem test_decode_est :
    decode 0b001010_0100_0000_0010_0000_10_0_0000000 = .command (.est 4 0 2 ⟨true, false⟩) := by decide
theorem test_decode_pipe :
    decode 0b001011_1000_0000_0010_0100_01_0_0000000 = .command (.pipe 8 0 2 4 ⟨false, true⟩) := by decide

/-- The words of programs P1, P2 and P4 for the aliases of R111. -/
theorem test_aliases : encode (.pidZero 4 0 1 2) = 0x25004800 ∧ encode (.pidOne 4 0 1 2) = 0x25004880 ∧
    encode (.pipeCl 8 0 2 4) = 0x2E009100 ∧ encode (.pipeV 10 0 2 4) = 0x2E809200 ∧
    encode (.pipeOl 8 0 2 4) = 0x2E009000 ∧ encode (.estOl 0 0 0) = 0x28000000 ∧
    encode (.estCl 0 0 0) = 0x28000100 := by decide

/-- The assembler text of V-DEC-1 and V-DEC-2 (R110). -/
theorem test_asm : Instr.asm (.sincos 2 0) = "sincos d2, d0" ∧
    Instr.asm (.pid 4 0 1 2 .pid1) = "pid d4, d0, d1, d2, inst=1" := by decide

/-- A word decodes through the table interface, and the first step after reset runs it (V-DEC-1, V-SC-1). -/
theorem test_tableWord : decodeTableWord 32 0x10800000 = some (.sincos 2 0) ∧
    decodeTableWord 32 0x10000001 = none ∧
    (let t := got (step (State.reset.withFetchWord 32 0x10800000))
     [t.x 2, t.x 3] = [0, 32767] ∧ t.cmd = 0x10800000 ∧ t.status.word = 0x00010000) := by decide

/-! ## The commands -/

/-- V-SAT-1, V-SAT-2. -/
theorem test_sat16 : results (.sat16 2 1) (regs [0, 40000]) [2] = [32767] ∧
    results (.sat16 1 1) (regs [0, -32768]) [1] = [-32767] := by decide

/-- V-SCL-2, V-SCL-5, V-SCL-6. -/
theorem test_scale : results (.scale 3 0 1 2) (regs [-1000, 3, 7]) [3] = [-428] ∧
    results (.scale 3 0 1 2) (regs [-2147483648, 1, -1]) [3] = [32767] ∧
    results (.scale 3 0 1 2) (regs [2147483647, 2147483647, 1]) [3] = [32767] := by decide
/-- V-SCL-9. -/
theorem test_scale_div0 : faultStatus (.scale 3 0 1 2) (regs [1, 1, 0]) = some 0x00000031 := by decide

/-- V-NORM-3, V-NORM-6, V-NORM-7. -/
theorem test_norm : results (.norm 2 0 1) (regs [-24000, 24000]) [2] = [-32767] ∧
    results (.norm 2 0 1) (regs [-1, 3]) [2] = [-10922] ∧
    results (.norm 2 0 1) (regs [5000, -10000]) [2] = [-16384] := by decide
/-- V-NORM-11. -/
theorem test_norm_div0 : faultStatus (.norm 2 0 1) (regs [5, 0]) = some 0x00000031 := by decide

/-- V-SC-6, V-SC-11. -/
theorem test_sincos : results (.sincos 2 0) (regs [10923]) [2, 3] = [28310, 16499] ∧
    results (.sincos 2 0) (regs [-1]) [2, 3] = [-201, 32766] := by decide
/-- P1 step 7: the pair at D15 wraps to D0, which was the angle. -/
theorem test_sincos_wraps : results (.sincos 15 0) (regs [8192]) [15, 0] = [23170, 23170] := by decide

/-- V-POL-6, V-POL-8. -/
theorem test_polar : results (.polar 4 0 1) (regs [24576, 1000]) [4, 5] = [707, -708] ∧
    results (.polar 4 0 1) (regs [0, -2147483648]) [4, 5] = [0, -2147418112] := by decide

/-- V-ROT-3, V-ROT-6. -/
theorem test_vrot : results (.vrot 3 0 2) (regs [100, 200, -16384]) [3, 4] = [-200, 99] ∧
    results (.vrot 3 0 2) (regs [-2147483648, -2147483648, 8192]) [3, 4] = [-2147483647, 0] := by decide
/-- V-ROT-8: the angle in D7 is read before D7 is written. -/
theorem test_vrot_overlap :
    results (.vrot 6 4 7) (regs [0, 0, 0, 0, 707, 707, 0, 16384]) [6, 7] = [706, -707] := by decide

/-- V-CLK-3, V-CLK-9. -/
theorem test_clarke : results (.clarke 2 0 1) (regs [-1001, 0]) [2, 3, 4] = [-1001, 501, 501] ∧
    results (.clarke 2 0 1) (regs [-2147483648, 2147483647]) [2, 3, 4] =
      [-2147483647, 2147483647, -786038783] := by decide

/-- V-SVC-3, V-SVC-4. -/
theorem test_svc : results (.svc 4 0 3) (regs [10, -3, 7, 0]) [4, 5, 6] = [7, -6, 4] ∧
    results (.svc 4 0 3) (regs [100, 50, -200, 301]) [4, 5, 6] = [300, 250, 0] := by decide

/-- P2 step 8, the first tick: output, error, INTEG and PREV. -/
theorem test_pid : let s := { regs [0, 100, 0, 1000] with pid0 := gains 1000 100 500 0 5000 }
    results (.pid 4 0 1 2 .pid0) s [4, 5] = [160, 100] ∧ history (.pid 4 0 1 2 .pid0) s .pid0 = [100, 100] := by
  decide
/-- V-PID-15, V-PID-16 and V-PID-17: PRECOND, RANGE, and PRECOND before RANGE. -/
theorem test_pid_faults :
    faultStatus (.pid 4 0 1 2 .pid1) { State.reset with pid1 := gains 0 0 0 0 (-5) } = some 0x00000021 ∧
    faultStatus (.pid 4 0 1 2 .pid0) (regs [-2147483648, 2147483647, 0, 0]) = some 0x00000041 ∧
    faultStatus (.pid 4 0 1 2 .pid0) (regs [-2147483648, 2147483647, 0, -1]) = some 0x00000021 := by decide

/-- V-EST-3 and V-EST-4: the open-loop product saturates; each instance ticks on its component. -/
theorem test_est : results (.est 4 0 2 ⟨false, false⟩)
      { regs [2147483647, 0] with resMohm := 2147483647 } [4, 5] = [2147483647, 0] ∧
    (let s := { regs [0, 2000, 0, 500] with
       vsupMv := 12000, pid0 := gains 1000 0 0 0 0, pid1 := gains 1000 0 0 0 0 }
     results (.est 4 0 2 ⟨false, true⟩) s [4, 5] = [0, 1500] ∧
     history (.est 4 0 2 ⟨false, true⟩) s .pid1 = [0, 1500]) := by decide
/-- V-EST-7, V-EST-9. -/
theorem test_est_faults :
    faultStatus (.est 4 0 2 ⟨false, true⟩) { State.reset with vsupMv := bits32 (-1) } = some 0x00000021 ∧
    faultStatus (.est 4 0 2 ⟨false, true⟩) (regs [2147483647, 0, -1, 0]) = some 0x00000041 := by decide

/-- V-PIPE-2, V-PIPE-4 and V-PIPE-5. -/
theorem test_pipe : results (.pipe 8 0 2 4 ⟨false, false⟩)
      { regs [0, 1000] with vmaxMv := 24000, resMohm := 1000 } [8, 9] = [0, 1363] ∧
    (let s := { regs [0, 1000, 0, 200] with
       vsupMv := 12000, vmaxMv := 24000, pid0 := gains 2000 100 0 0 10000, pid1 := gains 2000 100 0 0 10000 }
     results (.pipe 8 0 2 4 ⟨false, true⟩) s [8, 9] = [0, 2289] ∧
     history (.pipe 8 0 2 4 ⟨false, true⟩) s .pid1 = [799, 799]) ∧
    results (.pipe 8 0 2 4 ⟨true, true⟩) { regs [0, 0, 0, 0, 30000, -30000] with
      vmaxMv := 24000, vsupMv := bits32 (-1) } [8, 9] = [32767, -32767] := by decide
/-- V-PIPE-6, V-PIPE-7 and V-PIPE-10. -/
theorem test_pipe_faults : faultStatus (.pipe 8 0 2 4 ⟨false, false⟩) State.reset = some 0x00000031 ∧
    faultStatus (.pipe 8 0 2 4 ⟨false, true⟩) { State.reset with vsupMv := bits32 (-1) } = some 0x00000021 ∧
    faultStatus (.pipe 8 0 2 4 ⟨false, true⟩)
      { regs [0, 2147483647, 0, -2147483648] with vmaxMv := 100 } = some 0x00000041 := by decide

/-! ## The host's side -/

/-- V-HOST-1 and V-HOST-2. -/
theorem test_read_constants :
    (got (step (host State.reset [.read 0x04C 4]))).reply = .value 0x46504D4C ∧
    (got (step (host State.reset [.read 0x0A0 4]))).reply = .value 0x03E8010A := by decide

/-- V-HOST-3, V-HOST-4 and a byte access (R74). -/
theorem test_bus_errors : step (host State.reset [.read 0x0A4 4]) = .fault .busErrUnmapped ∧
    step (host State.reset [.read 0x046 4]) = .fault .busErrAlign ∧
    step (host State.reset [.read 0x040 1]) = .fault .busErrWidth := ⟨rfl, rfl, rfl⟩

/-- V-HOST-8. -/
theorem test_status_bit0_clear :
    (got (step (host { State.reset with status := ⟨true, 3, 0⟩ } [.write 0x044 4 0xFFFFFFFE]))).status =
      ⟨true, 3, 0⟩ := by decide

/-- P5 steps 1 to 3: an illegal word, a dropped command, and recovery. -/
theorem test_fault_drop_recover :
    let s := host State.reset [.write 0x040 4 0, .write 0x040 4 0x0C400000, .write 0x044 4 1]
    (runHost 1 s).status.word = 0x00000011 ∧ (runHost 1 s).reply = .faulted 1 ∧
    (runHost 2 s).cmd = 0x0C400000 ∧ (runHost 2 s).reply = .dropped ∧ (runHost 2 s).status.word = 0x00000011 ∧
    (runHost 3 s).status.word = 0 ∧ (runHost 3 s).faultCmd = 0 := by decide

/-- P4 steps 11 and 12 end on a mapped read of PID1_PREV (R50): 0x098 shows the previous error. -/
theorem test_read_prev :
    (got (step (host { State.reset with pid1 := ⟨0, 0, 0, 0, 0, 898, 99⟩ } [.read 0x098 4]))).reply =
      .value 99 := by decide

/-- R73: byte offset 0x04C shows the lowest byte of ID, and 0x04F the highest. -/
theorem test_little_endian : State.reset.windowByte 0x04C = some 0x4C ∧
    State.reset.windowByte 0x04F = some 0x46 ∧ State.reset.windowByte 0x0A4 = none := by decide

/-! ## Witnesses: states and operands that meet each obligation's hypotheses, at the ends of their ranges -/

/-- A state whose pending action is a CMD write of `w`. -/
def issued (s : State) (w : Word) : State := host s [.write 0x040 4 w]

theorem test_witness_DecodeThenEncodeIsIdentity :
    decode 0x2FFFFF00 = .command (.pipe 15 15 15 15 ⟨true, true⟩) := by decide

theorem test_witness_DecodeFollowsOpcodeMap :
    (∀ row ∈ opcodeMap, (0x30000000 : Word) &&& row.mask ≠ row.pattern) ∧
    ⟨.pid, 0x24000000, 0xFC00037F⟩ ∈ opcodeMap := by decide

theorem test_witness_StepRunsDecodedCommand : let s := issued State.reset 0x07FC0000
    s.bus = .write 0x040 4 0x07FC0000 :: [] ∧ s.inReset = false ∧ s.status.fault = false ∧
    decode 0x07FC0000 = .command (.sat16 15 15) := by decide

theorem test_witness_CommandDroppedWhileFaulted :
    let s := issued { State.reset with status := ⟨true, 1, 0xFFFF⟩ } 0x10800000
    s.bus = .write 0x040 4 0x10800000 :: [] ∧ s.inReset = false ∧ s.status.fault = true := by decide

/-- One word for each disjunct, at the ends of the reserved opcodes. -/
theorem test_witness_IllegalWordFaults : (issued State.reset 0).bus = .write 0x040 4 0 :: [] ∧
    State.reset.inReset = false ∧ State.reset.status.fault = false ∧
    (Cmd32.ofWord 0x00000000).opc = 0 ∧ (Cmd32.ofWord 0x30000000).opc.val = 0x0C ∧
    (Cmd32.ofWord 0xFC000000).opc.val = 0x3F ∧ (Cmd32.ofWord 0x10000001).rsv ≠ 0 ∧
    ((Cmd32.ofWord 0x10004000).rs2 ≠ 0 ∧ (Cmd32.ofWord 0x10004000).opc.val ∈ [0x01, 0x04]) ∧
    ((Cmd32.ofWord 0x28000400).rs3 ≠ 0 ∧ (Cmd32.ofWord 0x28000400).opc.val = 0x0A) ∧
    ((Cmd32.ofWord 0x24000100).mode ≠ 0 ∧ (Cmd32.ofWord 0x24000100).opc.val ∉ [0x0A, 0x0B]) ∧
    ((Cmd32.ofWord 0x2C000080).inst ≠ 0 ∧ (Cmd32.ofWord 0x2C000080).opc.val ≠ 0x09) := by decide

/-- Both clauses: a divisor of -1, and of 0. -/
theorem test_witness_ScaleMultipliesDividesAndSaturates :
    (regs [1, 1, -1]).x 2 ≠ 0 ∧ (regs [1, 1, 0]).x 2 = 0 := by decide

theorem test_witness_NormDividesShiftedVoltage : (regs [1, -1]).x 1 ≠ 0 ∧ (regs [1, 0]).x 1 = 0 := by decide

/-- The clauses of PID: limit and bound 0 with the error at either end of its range; limit or bound -1; an
error one beyond the range. -/
theorem test_witness_PidTicksItsInstance :
    (let s := regs [0, 2147483647, 0, 0]
     0 ≤ s.x 3 ∧ 0 ≤ (s.pid .pid0).iclamp.toInt ∧ ErrorFits (s.x 1 - s.x 0)) ∧
    ErrorFits ((regs [0, -2147483648]).x 1 - (regs [0, -2147483648]).x 0) ∧
    (regs [0, 0, 0, -1]).x 3 < 0 ∧ (gains 0 0 0 0 (-1)).iclamp.toInt < 0 ∧
    ¬ErrorFits ((regs [-1, 2147483647]).x 1 - (regs [-1, 2147483647]).x 0) := by decide

/-- The clauses of EST. -/
theorem test_witness_EstEstimatesVoltage :
    (⟨true, false⟩ : Mode).closed = false ∧ (⟨true, true⟩ : Mode).closed = true ∧
    FeedbackPrecond State.reset ∧ ErrorFits ((regs [2147483647]).x 0 - (regs [2147483647]).x 2) ∧
    ¬FeedbackPrecond { State.reset with vsupMv := bits32 (-1) } ∧
    ¬(ErrorFits 0 ∧ ErrorFits ((regs [0, -2147483648, 0, 1]).x 1 - (regs [0, -2147483648, 0, 1]).x 3)) := by
  decide

theorem test_witness_PipeVoltageNormalisesTarget : (⟨true, false⟩ : Mode).voltage = true ∧
    ({ State.reset with vmaxMv := bits32 (-1) } : State).vmaxMv.toInt ≠ 0 ∧ State.reset.vmaxMv.toInt = 0 := by
  decide

theorem test_witness_PipeOpenLoopNormalisesEstimate :
    ({ State.reset with vmaxMv := 1 } : State).vmaxMv.toInt ≠ 0 ∧ State.reset.vmaxMv.toInt = 0 := by decide

/-- The clauses of closed-loop PIPE, the last with the error of V-PIPE-10. -/
theorem test_witness_PipeClosedLoopTicksBothInstances :
    (let s := { regs [0, 1000, 0, 200] with vmaxMv := 1 }
     FeedbackPrecond s ∧ s.vmaxMv.toInt ≠ 0 ∧
     ErrorFits (s.x 1 * lsin (tableIndex s.d[(0 : Reg)]) / 2 ^ 15 - s.x 2) ∧
     ErrorFits (s.x 1 * lcos (tableIndex s.d[(0 : Reg)]) / 2 ^ 15 - s.x 3)) ∧
    ¬FeedbackPrecond { State.reset with pid1 := gains 0 0 0 0 (-1) } ∧
    FeedbackPrecond State.reset ∧ State.reset.vmaxMv.toInt = 0 ∧
    (let s := { regs [0, 2147483647, 0, -2147483648] with vmaxMv := 100 }
     FeedbackPrecond s ∧ s.vmaxMv.toInt ≠ 0 ∧
     ¬ErrorFits (s.x 1 * lcos (tableIndex s.d[(0 : Reg)]) / 2 ^ 15 - s.x 3)) := by decide

theorem test_witness_NormalisationIsOddAndMonotone :
    (-1 : Int) ≠ 0 ∧ (1 : Int) ≠ 0 ∧ (0 : Int) < 1 ∧ (-3 : Int) ≤ -3 := by decide

/-- The ends of the table, and an index in each quadrant. -/
theorem test_witness_SineLookupIdentities : (0 : Nat) ≤ 256 ∧ (256 : Nat) ≤ 256 ∧ 255 / 256 % 4 = 0 ∧
    256 / 256 % 4 = 1 ∧ 512 / 256 % 4 = 2 ∧ 1023 / 256 % 4 = 3 := by decide

theorem test_witness_SineTableRoundsTheSine : (256 : Nat) ≤ 256 ∧ (1023 : Nat) < 1024 := by decide

theorem test_witness_PolarIsRotationOfTheMagnitude :
    let s := regs [8192, 1000]
    let u := regs [0, 1000, 8192]
    u.d[(2 : Reg)] = s.d[(0 : Reg)] ∧ u.x 0 = 0 ∧ u.x (0 + 1) = s.x 1 := by decide

/-- An even and an odd alpha. -/
theorem test_witness_ClarkePhasesSumToParity : ∀ al ∈ [(1000 : Int), -1001], let s := regs [al, 10000]
    saturated (s.x 0) = s.x 0 ∧
    saturated (28378 * s.x 1 / 2 ^ 15 - s.x 0 / 2) = 28378 * s.x 1 / 2 ^ 15 - s.x 0 / 2 ∧
    saturated (-(28378 * s.x 1 / 2 ^ 15) - s.x 0 / 2) = -(28378 * s.x 1 / 2 ^ 15) - s.x 0 / 2 := by decide

/-- V-SVC-1 with the supply exactly max - min = 1500: the offset is 500. -/
theorem test_witness_SvcCentersWithinSupply : let s := regs [1000, -500, -500, 1500]
    let mx := max (s.x 0) (max (s.x 1) (s.x 2))
    let mn := min (s.x 0) (min (s.x 1) (s.x 2))
    let off := ((s.x 3 - mx) - mn).tdiv 2
    mx - mn ≤ s.x 3 ∧ off = 500 ∧ saturated (s.x 0 + off) = s.x 0 + off ∧
    saturated (s.x 1 + off) = s.x 1 + off ∧ saturated (s.x 2 + off) = s.x 2 + off := by decide

/-- The three clauses: V-PID-2 (KFF not 0, no feed-forward), EST and PIPE with a history and KFF. -/
theorem test_witness_ZeroGainsGiveZeroOutput :
    let p : Pid := ⟨0, 0, 0, 500, 5000, 100, 100⟩
    let s := { regs [112, 100, 0, 1000] with pid0 := p, pid1 := p, vsupMv := 12000, vmaxMv := 24000 }
    ((s.pid .pid0).kp = 0 ∧ (s.pid .pid0).ki = 0 ∧ (s.pid .pid0).kd = 0 ∧ s.x 2 = 0 ∧
      isNext (exec (.pid 4 0 1 2 .pid0) s) = true ∧ Counted s (got (exec (.pid 4 0 1 2 .pid0) s))) ∧
    (∀ n ∈ [Inst.pid0, .pid1], (s.pid n).kp = 0 ∧ (s.pid n).ki = 0 ∧ (s.pid n).kd = 0) ∧
    Counted s (got (exec (.est 4 0 2 ⟨false, true⟩) s)) ∧
    Counted s (got (exec (.pipe 8 0 2 4 ⟨false, true⟩) s)) := by decide

theorem test_witness_PidOutputWithinLimit : let s := { regs [0, 1000, 0, 1500] with pid0 := gains 2000 0 0 0 0 }
    ∃ t, exec (.pid 4 0 1 2 .pid0) s = .next t ∧ Counted s t :=
  ⟨_, eq_next (by decide), by decide⟩

/-- PID, closed-loop EST and closed-loop PIPE, each on instance 1. -/
theorem test_witness_IntegralStaysWithinClamp :
    let s := { regs [0, 1000, 0, 200] with vsupMv := 12000, vmaxMv := 24000, pid1 := gains 0 1000 0 0 250 }
    ∀ i ∈ [Instr.pid 4 0 1 2 .pid1, .est 4 0 2 ⟨false, true⟩, .pipe 8 0 2 4 ⟨false, true⟩],
      Inst.pid1 ∈ i.ticks ∧ isNext (exec i s) = true ∧ Counted s (got (exec i s)) := by decide

/-- Instance 1: EST's second component and a PID command on the same values. -/
theorem test_witness_ClosedLoopEstIsTwoPidTicks :
    let s := { regs [0, 2000, 0, 500] with vsupMv := 12000, pid1 := gains 1000 0 0 0 0 }
    let u := { regs [500, 2000, 0, 12000] with pid1 := gains 1000 0 0 0 0 }
    (∃ t p, exec (.est 4 0 2 ⟨false, true⟩) s = .next t ∧ Counted s t ∧
      exec (.pid 4 0 1 2 .pid1) u = .next p) ∧
    (Inst.pid1, (1 : Reg)) ∈ [(Inst.pid0, (0 : Reg)), (.pid1, 1)] ∧ u.pid .pid1 = s.pid .pid1 ∧
    u.x 0 = s.x (2 + 1) ∧ u.x 1 = s.x (0 + 1) ∧ u.x 2 = 0 ∧ u.x (2 + 1) = s.vsupMv.toInt :=
  ⟨⟨_, _, eq_next (by decide), by decide, eq_next (by decide)⟩, by decide⟩

/-- The sequence of V-PIPE-4, which completes, and of V-PIPE-10, whose EST faults. -/
theorem test_witness_PipeIsPolarThenEstThenNorm :
    let s := { regs [0, 1000, 0, 200] with vsupMv := 12000, vmaxMv := 24000, pid1 := gains 2000 0 0 0 0 }
    let f := { regs [0, 2147483647, 0, -2147483648] with vmaxMv := 100 }
    ((6 : Reg) ∉ [(2 : Reg), 2 + 1] ∧ (6 + 1 : Reg) ∉ [(2 : Reg), 2 + 1] ∧ s.vmaxMv.toInt ≠ 0) ∧
    (∃ s1 s2, exec (.polar 6 0 (0 + 1)) s = .next s1 ∧ exec (.est 8 6 2 ⟨false, true⟩) s1 = .next s2 ∧
      Counted s1 s2) ∧
    (∃ f1 f2, exec (.polar 6 0 (0 + 1)) f = .next f1 ∧ exec (.est 8 6 2 ⟨false, true⟩) f1 = .next f2 ∧
      ¬Counted f1 f2) :=
  ⟨by decide, ⟨_, _, eq_next (by decide), eq_next (by decide), by decide⟩,
    ⟨_, _, eq_next (by decide), eq_next (by decide), by decide⟩⟩

theorem test_witness_PipeVoltageIsTwoNorms :
    let s := { regs [0, 0, 0, 0, 12000, -6000, 24000] with vmaxMv := 24000 }
    s.d[(6 : Reg)] = s.vmaxMv ∧ s.vmaxMv.toInt ≠ 0 ∧
    ∃ n0 n1, exec (.norm 8 4 6) s = .next n0 ∧ exec (.norm 9 (4 + 1) 6) s = .next n1 :=
  ⟨by decide, by decide, _, _, eq_next (by decide), eq_next (by decide)⟩

/-- The commands whose inputs are the minimum integer: V-SAT-6, V-CLK-10. -/
theorem test_witness_ResultsAvoidTheSentinel : let s := regs [-2147483648]
    (∃ t, exec (.sat16 1 0) s = .next t ∧ Counted s t ∧ 1 ∈ (Instr.sat16 1 0).narrowResults) ∧
    (∃ t, exec (.clarke 2 0 1) s = .next t ∧ Counted s t ∧ 2 ∈ (Instr.clarke 2 0 1).wideResults) :=
  ⟨⟨_, eq_next (by decide), by decide, by decide⟩, ⟨_, eq_next (by decide), by decide, by decide⟩⟩

/-- A PID command changes PREV; so does the reset input. -/
theorem test_witness_PidStateHasOneOwner :
    (let s := issued (regs [0, 100, 0, 1000]) 0x25004800
     ∃ t, step s = .next t ∧ (t.pid .pid0).prev ≠ (s.pid .pid0).prev) ∧
    (let s := host { State.reset with pid0 := ⟨0, 0, 0, 0, 0, 5, 7⟩ } [.resetLine true]
     ∃ t, step s = .next t ∧ (t.pid .pid0).integ ≠ (s.pid .pid0).integ) :=
  ⟨⟨_, eq_next (by decide), by decide⟩, ⟨_, eq_next (by decide), by decide⟩⟩

/-- CMDCNT wraps on a completed command, and stays on a faulting one and when reset is driven low while low. -/
theorem test_witness_CommandCounterCountsCompletions :
    (let s := issued { State.reset with status := ⟨false, 0, 0xFFFF⟩ } 0x04000000
     (∀ rest, s.bus ≠ .resetLine true :: rest) ∧ s.inReset = false ∧
     ∃ t, step s = .next t ∧ Counted s t ∧ t.status.cmdCnt = 0) ∧
    (let s := issued State.reset 0x0C400000
     ∃ t, step s = .next t ∧ ¬Counted s t) ∧
    (let s := host State.reset [.resetLine false]
     (∀ rest, s.bus ≠ .resetLine true :: rest) ∧ s.inReset = false ∧ ∃ t, step s = .next t ∧ ¬Counted s t) := by
  refine ⟨⟨fun rest h => ?_, rfl, _, eq_next (by decide), by decide, by decide⟩,
    ⟨_, eq_next (by decide), by decide⟩, fun rest h => ?_, rfl, _, eq_next (by decide), by decide⟩ <;>
  simp [issued, host] at h

theorem test_witness_FaultsArePrecise : let s := issued State.reset 0x0C400000
    ∃ t, step s = .next t ∧ s.status.fault = false ∧ t.status.fault = true ∧ t.status.cause = 3 :=
  ⟨_, eq_next (by decide), by decide, by decide, by decide⟩

/-- The invariant holds in a faulted state, and a step leaves it. -/
theorem test_witness_EveryStepKeepsStatusInvariant :
    let s := host { State.reset with status := ⟨true, 4, 7⟩ } [.write 0x044 4 1]
    s.StatusInv ∧ ∃ t, step s = .next t ∧ t.status = ⟨false, 0, 7⟩ :=
  ⟨by decide, _, eq_next (by decide), by decide⟩

/-- A host that reads both ends of the window's map, issues a command and pulses reset. -/
theorem test_witness_RuleKeepingHostIsNeverStopped :
    hostOk false [.read 0x000 4, .write 0x040 4 0xFFFFFFFF, .read 0x0A0 4, .resetLine true, .resetLine false,
      .write 0x09C 4 1] = true ∧
    hostOk true [.read 0x000 4] = false ∧ hostOk false [.read 0x0A4 4] = false := by decide

/-- Asserting, releasing, holding, and driving low what is low. -/
theorem test_witness_ResetLineResetsEverything :
    (host State.reset [.resetLine true]).bus = .resetLine true :: [] ∧
    (host { State.reset with inReset := true } [.resetLine false]).bus = .resetLine false :: [] ∧
    (host State.reset [.resetLine false]).bus = .resetLine false :: [] ∧ State.reset.inReset = false ∧
    ({ State.reset with inReset := true } : State).inReset = true ∧
    ({ State.reset with inReset := true } : State).bus = [] := by decide

theorem test_witness_AccessInResetIsRefused :
    let s := host { State.reset with inReset := true } [.read 0x040 4]
    s.inReset = true ∧ s.bus = .read 0x040 4 :: [] ∧
    (host s [.write 0x040 4 0]).bus = .write 0x040 4 0 :: [] := by decide

theorem test_witness_IdleUntilTheHostActs : State.reset.bus = [] ∧ State.reset.inReset = false := by decide

theorem test_witness_DataRegistersInTheWindow :
    (host State.reset [.read (BitVec.ofNat 12 (4 * (15 : Reg).val)) 4]).bus = .read 0x03C 4 :: [] ∧
    (host State.reset [.write (BitVec.ofNat 12 (4 * (0 : Reg).val)) 4 1]).bus = .write 0x000 4 1 :: [] ∧
    State.reset.inReset = false := by decide

theorem test_witness_WindowReadsTheRegisterMap : let s := host State.reset [.read 0x0A0 4]
    s.inReset = false ∧ s.bus = .read 0x0A0 4 :: [] ∧
    ((0x0A0, 0x03E8010A) : Offset × Word) ∈ ([(0x040, s.cmd), (0x0A0, 0x03E8010A)] : List (Offset × Word)) := by
  decide

theorem test_witness_ConfigurationWritesStore : let s := host State.reset [.write 0x090 4 5]
    s.inReset = false ∧ s.bus = .write 0x090 4 5 :: [] ∧
    (got (step s)).pid1 = { s.pid1 with iclamp := 5 } := by decide

/-- Both clauses, at the first and the last offset listed. -/
theorem test_witness_ReadOnlyWritesAreIgnored :
    (0x048 : Offset) ∈ ([0x048, 0x04C, 0x0A0, 0x074, 0x078, 0x094, 0x098, 0x07C, 0x09C] : List Offset) ∧
    (host State.reset [.write 0x048 4 5]).bus = .write 0x048 4 5 :: [] ∧
    (0x09C : Offset) ∈ ([0x07C, 0x09C] : List Offset) ∧
    (host State.reset [.read 0x09C 4]).bus = .read 0x09C 4 :: [] ∧ State.reset.inReset = false := by decide

theorem test_witness_StatusReadsItsFields :
    let s := host { State.reset with status := ⟨true, 4, 0xFFFF⟩ } [.read 0x044 4]
    s.inReset = false ∧ s.bus = .read 0x044 4 :: [] := by decide

/-- Both clauses: bit 0 set with a fault; bit 0 clear, or no fault (V-HOST-7, V-HOST-8). -/
theorem test_witness_StatusWriteClearsFault :
    (let s := host { State.reset with status := ⟨true, 4, 0⟩ } [.write 0x044 4 1]
     s.inReset = false ∧ s.bus = .write 0x044 4 1 :: [] ∧ (1 : Word).getLsbD 0 = true ∧
     s.status.fault = true) ∧
    (0xFFFFFFFE : Word).getLsbD 0 = false ∧ State.reset.status.fault = false := by decide

theorem test_witness_CmdReadsBackTheLastWord :
    let s := host State.reset [.write 0x040 4 0xFFFFFFFF, .read 0x040 4]
    s.inReset = false ∧ s.bus = .write 0x040 4 0xFFFFFFFF :: .read 0x040 4 :: [] := by decide

/-- The four clauses at the values where they meet: 0x0A0 is mapped, 0x0A4 and 0xFFC are not. -/
theorem test_witness_BadAccessIsBusError : State.reset.inReset = false ∧
    (host State.reset [.read 0x040 2]).bus = .read 0x040 2 :: [] ∧ (2 : Nat) ≠ 4 ∧
    (0x046 : Offset).toNat % 4 ≠ 0 ∧
    ((0x0A4 : Offset).toNat % 4 = 0 ∧ 0x0A4 ≤ (0x0A4 : Offset).toNat) ∧
    ((0xFFC : Offset).toNat % 4 = 0 ∧ 0x0A4 ≤ (0xFFC : Offset).toNat) ∧
    ((0x0A0 : Offset).toNat % 4 = 0 ∧ (0x0A0 : Offset).toNat < 0x0A4) := by decide

/-- STATUS, and PARAM, the last mapped register. -/
theorem test_witness_WindowIsLittleEndian :
    (17 : Nat) ≤ 0x0A0 / 4 ∧ (0x0A0 / 4 : Nat) ≤ 0x0A0 / 4 ∧
    ∀ p ∈ [((17 : Nat), (0x00050031 : Word)), (40, 0x03E8010A)],
      (got (step { State.reset with status := ⟨true, 3, 5⟩, bus := [.read (BitVec.ofNat 12 (4 * p.1)) 4] })).reply =
        .value p.2 ∧
      isNext (step { State.reset with status := ⟨true, 3, 5⟩, bus := [.read (BitVec.ofNat 12 (4 * p.1)) 4] }) =
        true := by decide

theorem test_witness_ReadsHaveNoSideEffects :
    let s := host { State.reset with status := ⟨true, 2, 1⟩ } [.read 0x044 4, .read 0x044 4]
    s.bus = .read 0x044 4 :: .read 0x044 4 :: [] ∧ ∃ t, step s = .next t :=
  ⟨by decide, _, eq_next (by decide)⟩

end Sys2Proof.Tests
end

section
/-! PROOFS. The statements of 00_scope.md: an angle is read modulo a whole turn (R20, R142), and no result
is the minimum integer of its width (R24). For the second, every result is shown to lie in a range symmetric
about 0, which a faulting command need not meet, since it is not counted. -/

namespace Sys2Proof.Machine

/-- The signed angle and the unsigned one differ by whole turns (R11, R20). -/
theorem int16_emod (w : Word) : int16 w % 65536 = (uint16 w : Int) := by
  have hbits : (w.extractLsb' 0 16).toNat = uint16 w := by
    simp [uint16, BitVec.extractLsb'_toNat]
  have hfit : (uint16 w : Int) < 65536 := by unfold uint16; omega
  calc int16 w % 65536
      = (uint16 w : Int).bmod (2 ^ 16) % 65536 := by rw [int16, BitVec.toInt_eq_toNat_bmod, hbits]
    _ = uint16 w % 65536 := Int.bmod_emod
    _ = uint16 w := Int.emod_eq_of_lt (Int.natCast_nonneg _) hfit

/-- Whole turns are above the bits an angle is read from. -/
theorem uint16_add_turns (w : Word) (k : Nat) : uint16 (w + BitVec.ofNat 32 (65536 * k)) = uint16 w := by
  simp only [uint16, BitVec.toNat_add, BitVec.toNat_ofNat]
  omega

/-- Settles O24: the index depends on bits 15:0 only, which are the signed angle modulo a whole turn. -/
theorem angleIsReadModuloWholeTurns : Obligations.AngleIsReadModuloWholeTurns := by
  unfold Obligations.AngleIsReadModuloWholeTurns
  intro w k
  refine ⟨?_, ?_⟩
  · rw [angleIndex, uint16_add_turns, angleIndex]
  · rw [int16_emod, angleIndex, Int.natCast_ediv]
    rfl

/-! ### Results in a range symmetric about 0 -/

theorem abs_sat16_le (v : Int) : |sat16 v| ≤ 32767 := abs_le.mpr (sat16_bounds v)

theorem abs_sat32_le (v : Int) : |sat32 v| ≤ 2147483647 := abs_le.mpr (sat32_bounds v)

theorem abs_normq_le (v d : Int) : |normq v d| ≤ 32767 := abs_sat16_le _

theorem abs_openLoop_le (target resistance : Int) : |openLoop target resistance| ≤ 2147483647 :=
  abs_sat32_le _

/-- A controller's output is within a limit that a register holds. -/
theorem abs_controlOutput_le (p : Pid) (e ff : Int) {limit : Int} (h : 0 ≤ limit) (hmax : limit ≤ 2147483647) :
    |controlOutput p e ff limit| ≤ 2147483647 :=
  (abs_le.mpr (controlOutput_bounds p e ff limit h)).trans hmax

/-- A value in the symmetric range of at most 32 bits fits a register. -/
theorem fits_of_abs_le {b v : Int} (hb : b ≤ 2147483647) (h : |v| ≤ b) :
    -2147483648 ≤ v ∧ v ≤ 2147483647 := by
  obtain ⟨hlo, hhi⟩ := abs_le.mp h
  omega

section writes
variable (s : State) (r : Reg) {b v0 v1 v2 : Int}

theorem State.abs_setX_x_le (hb : b ≤ 2147483647) (h0 : |v0| ≤ b) :
    ∀ q ∈ [r], |(s.setX r v0).x q| ≤ b := by
  obtain ⟨hlo, hhi⟩ := fits_of_abs_le hb h0
  rw [List.forall_mem_singleton, State.setX_x_same s r hlo hhi]
  exact h0

theorem State.abs_setPair_x_le (hb : b ≤ 2147483647) (h0 : |v0| ≤ b) (h1 : |v1| ≤ b) :
    ∀ q ∈ [r, r + 1], |(s.setPair r v0 v1).x q| ≤ b := by
  obtain ⟨e0, e1⟩ := State.setPair_x s r (fits_of_abs_le hb h0) (fits_of_abs_le hb h1)
  simp [e0, e1, h0, h1]

theorem State.abs_setTriple_x_le (hb : b ≤ 2147483647) (h0 : |v0| ≤ b) (h1 : |v1| ≤ b) (h2 : |v2| ≤ b) :
    ∀ q ∈ [r, r + 1, r + 2], |(s.setTriple r v0 v1 v2).x q| ≤ b := by
  obtain ⟨e0, e1, e2⟩ :=
    State.setTriple_x s r (fits_of_abs_le hb h0) (fits_of_abs_le hb h1) (fits_of_abs_le hb h2)
  simp [e0, e1, e2, h0, h1, h2]

end writes

/-- The results a command leaves in `t` lie in the symmetric range of their width: 16 bits, or 32 bits
saturated or clamped (R24). -/
structure SymmetricResults (i : Instr) (t : State) : Prop where
  narrow : ∀ r ∈ i.narrowResults, |t.x r| ≤ 32767
  wide : ∀ r ∈ i.wideResults, |t.x r| ≤ 2147483647

/-- A command that answers `o` from `s` has symmetric results if it completed. -/
def SymmetricAnswer (i : Instr) (s : State) (o : Host.Outcome State Fault Refusal) : Prop :=
  ∀ t, o = .next t → Counted s t → SymmetricResults i t

/-- A faulting command is not counted, so it has no results. -/
theorem not_counted_takeFault (s : State) (c : Cause) : ¬Counted s (s.takeFault c) := by
  simp only [Counted, State.takeFault_status, Status.raise_cmdCnt]
  bv_omega

/-- A fault answers no results, so it meets the range of any command. -/
theorem symmetricAnswer_takeFault (i : Instr) (s : State) (c : Cause) :
    SymmetricAnswer i s (.next (s.takeFault c)) := by
  rintro _ ⟨⟩ hcount
  exact absurd hcount (not_counted_takeFault s c)

section answer
variable {i : Instr} {s u : State}

/-- A command of narrow results only, whose writes `u` are symmetric. -/
theorem symmetricAnswer_of_narrow (hwide : i.wideResults = []) (h : ∀ r ∈ i.narrowResults, |u.x r| ≤ 32767) :
    SymmetricAnswer i s (.next u.countCommand) := by
  rintro _ ⟨⟩ -
  exact ⟨by simpa using h, by simp [hwide]⟩

/-- A command of wide results only, whose writes `u` are symmetric. -/
theorem symmetricAnswer_of_wide (hnarrow : i.narrowResults = [])
    (h : ∀ r ∈ i.wideResults, |u.x r| ≤ 2147483647) : SymmetricAnswer i s (.next u.countCommand) := by
  rintro _ ⟨⟩ -
  exact ⟨by simp [hnarrow], by simpa using h⟩

end answer

theorem symmetricAnswer_sat16 (rd rs1 : Reg) (s : State) :
    SymmetricAnswer (.sat16 rd rs1) s (execSat16 rd rs1 s) :=
  symmetricAnswer_of_narrow rfl (s.abs_setX_x_le rd (by decide) (abs_sat16_le _))

theorem symmetricAnswer_scale (rd rs1 rs2 rs3 : Reg) (s : State) :
    SymmetricAnswer (.scale rd rs1 rs2 rs3) s (execScale rd rs1 rs2 rs3 s) := by
  unfold execScale
  split
  · exact symmetricAnswer_takeFault _ s .div0
  · exact symmetricAnswer_of_narrow rfl (s.abs_setX_x_le rd (by decide) (abs_sat16_le _))

theorem symmetricAnswer_norm (rd rs1 rs2 : Reg) (s : State) :
    SymmetricAnswer (.norm rd rs1 rs2) s (execNorm rd rs1 rs2 s) := by
  unfold execNorm
  split
  · exact symmetricAnswer_takeFault _ s .div0
  · exact symmetricAnswer_of_narrow rfl (s.abs_setX_x_le rd (by decide) (abs_normq_le _ _))

theorem symmetricAnswer_sincos (rd rs1 : Reg) (s : State) :
    SymmetricAnswer (.sincos rd rs1) s (execSincos rd rs1 s) :=
  symmetricAnswer_of_narrow rfl (s.abs_setPair_x_le rd (by decide)
    (abs_le.mpr (lsin_bounds _)) (abs_le.mpr (lcos_bounds _)))

theorem symmetricAnswer_polar (rd rs1 rs2 : Reg) (s : State) :
    SymmetricAnswer (.polar rd rs1 rs2) s (execPolar rd rs1 rs2 s) :=
  symmetricAnswer_of_wide rfl (s.abs_setPair_x_le rd le_rfl (abs_sat32_le _) (abs_sat32_le _))

theorem symmetricAnswer_vrot (rd rs1 rs2 : Reg) (s : State) :
    SymmetricAnswer (.vrot rd rs1 rs2) s (execVrot rd rs1 rs2 s) :=
  symmetricAnswer_of_wide rfl (s.abs_setPair_x_le rd le_rfl (abs_sat32_le _) (abs_sat32_le _))

theorem symmetricAnswer_clarke (rd rs1 rs2 : Reg) (s : State) :
    SymmetricAnswer (.clarke rd rs1 rs2) s (execClarke rd rs1 rs2 s) :=
  symmetricAnswer_of_wide rfl
    (s.abs_setTriple_x_le rd le_rfl (abs_sat32_le _) (abs_sat32_le _) (abs_sat32_le _))

theorem symmetricAnswer_svc (rd rs1 rs2 : Reg) (s : State) :
    SymmetricAnswer (.svc rd rs1 rs2) s (execSvc rd rs1 rs2 s) :=
  symmetricAnswer_of_wide rfl
    (s.abs_setTriple_x_le rd le_rfl (abs_sat32_le _) (abs_sat32_le _) (abs_sat32_le _))

/-- Everything PID can do (R203): PRECOND, then RANGE, then the tick. -/
theorem execPid_cases (rd rs1 rs2 rs3 : Reg) (n : Inst) (s : State) :
    (∃ c, execPid rd rs1 rs2 rs3 n s = .next (s.takeFault c)) ∨
    (0 ≤ s.x (rs3 + 1) ∧ ErrorFits (s.x rs2 - s.x rs1) ∧ execPid rd rs1 rs2 rs3 n s = .next
      ((s.setPair rd (controlOutput (s.pid n) (s.x rs2 - s.x rs1) (s.x rs3) (s.x (rs3 + 1)))
        (s.x rs2 - s.x rs1)).pidCommit n
          (pidEval (s.pid n) (s.x rs1) (s.x rs2) (s.x rs3) (s.x (rs3 + 1)))).countCommand) := by
  by_cases hpre : s.x (rs3 + 1) < 0 ∨ (s.pid n).iclamp.toInt < 0
  · exact .inl ⟨_, execPid_precond rd rs1 rs2 rs3 n s hpre⟩
  · rw [not_or, not_lt, not_lt] at hpre
    obtain ⟨hlimit, hclamp⟩ := hpre
    by_cases herr : ErrorFits (s.x rs2 - s.x rs1)
    · exact .inr ⟨hlimit, herr, execPid_complete rd rs1 rs2 rs3 n s hlimit hclamp herr⟩
    · exact .inl ⟨_, execPid_range rd rs1 rs2 rs3 n s hlimit hclamp herr⟩

/-- The output is clamped to the limit; the error beside it is not claimed. -/
theorem symmetricAnswer_pid (rd rs1 rs2 rs3 : Reg) (n : Inst) (s : State) :
    SymmetricAnswer (.pid rd rs1 rs2 rs3 n) s (execPid rd rs1 rs2 rs3 n s) := by
  obtain ⟨c, e⟩ | ⟨hlimit, ⟨herrLo, herrHi⟩, e⟩ := execPid_cases rd rs1 rs2 rs3 n s
  · rw [e]
    exact symmetricAnswer_takeFault _ s c
  · have hout := abs_controlOutput_le (s.pid n) (s.x rs2 - s.x rs1) (s.x rs3) hlimit (s.x_bounds _).2
    obtain ⟨hread, -⟩ := s.setPair_x rd (v1 := s.x rs2 - s.x rs1) (fits_of_abs_le le_rfl hout)
      ⟨by omega, by omega⟩
    rw [e]
    refine symmetricAnswer_of_wide rfl ?_
    simpa [Instr.wideResults, hread] using hout

theorem symmetricAnswer_est (rd rs1 rs2 : Reg) (mode : Mode) (s : State) :
    SymmetricAnswer (.est rd rs1 rs2 mode) s (execEst rd rs1 rs2 mode s) := by
  obtain ⟨voltage, closed⟩ := mode
  cases closed with
  | false =>
    rw [execEst_open]
    exact symmetricAnswer_of_wide rfl
      (s.abs_setPair_x_le rd le_rfl (abs_openLoop_le _ _) (abs_openLoop_le _ _))
  | true =>
    obtain ⟨-, e⟩ | ⟨-, -, e⟩ | ⟨⟨hlimit, -, -⟩, -, -, e⟩ := execEst_closed rd rs1 rs2 voltage s <;> rw [e]
    · exact symmetricAnswer_takeFault _ s .precond
    · exact symmetricAnswer_takeFault _ s .range
    · have hmax := (toInt_bounds s.vsupMv).2
      refine symmetricAnswer_of_wide rfl fun r hr => ?_
      rw [State.performCommits_x]
      exact s.abs_setPair_x_le rd le_rfl (abs_controlOutput_le _ _ _ hlimit hmax)
        (abs_controlOutput_le _ _ _ hlimit hmax) r hr

/-- Everything PIPE can do, in every mode (R251): fault, or write a normalised pair and perform commits. -/
theorem execPipe_cases (rd rs1 rs2 rs3 : Reg) (mode : Mode) (s : State) :
    (∃ c, execPipe rd rs1 rs2 rs3 mode s = .next (s.takeFault c)) ∨
    (∃ v0 v1 commits, execPipe rd rs1 rs2 rs3 mode s = .next
      ((s.setPair rd (normq v0 s.vmaxMv.toInt) (normq v1 s.vmaxMv.toInt)).performCommits
        commits).countCommand) := by
  obtain ⟨voltage, closed⟩ := mode
  by_cases hdiv : s.vmaxMv.toInt = 0
  · by_cases hpre : voltage = true ∨ closed = false ∨ FeedbackPrecond s
    · exact .inl ⟨_, execPipe_div0 rd rs1 rs2 rs3 _ s hdiv hpre⟩
    · simp only [not_or, Bool.not_eq_true, Bool.not_eq_false] at hpre
      obtain ⟨rfl, rfl, hpre⟩ := hpre
      exact .inl ⟨_, execPipe_precond rd rs1 rs2 rs3 s hpre⟩
  · cases voltage with
    | true => exact .inr ⟨_, _, [], execPipe_voltage rd rs1 rs2 rs3 closed s hdiv⟩
    | false =>
      cases closed with
      | false => exact .inr ⟨_, _, [], execPipe_open rd rs1 rs2 rs3 s hdiv⟩
      | true =>
        by_cases hpre : FeedbackPrecond s
        · obtain ⟨-, e⟩ | ⟨-, -, e⟩ := execPipe_closed rd rs1 rs2 rs3 s hpre hdiv
          · exact .inl ⟨_, e⟩
          · exact .inr ⟨_, _, _, e⟩
        · exact .inl ⟨_, execPipe_precond rd rs1 rs2 rs3 s hpre⟩

theorem symmetricAnswer_pipe (rd rs1 rs2 rs3 : Reg) (mode : Mode) (s : State) :
    SymmetricAnswer (.pipe rd rs1 rs2 rs3 mode) s (execPipe rd rs1 rs2 rs3 mode s) := by
  obtain ⟨c, e⟩ | ⟨v0, v1, commits, e⟩ := execPipe_cases rd rs1 rs2 rs3 mode s <;> rw [e]
  · exact symmetricAnswer_takeFault _ s c
  · refine symmetricAnswer_of_narrow rfl fun r hr => ?_
    rw [State.performCommits_x]
    exact s.abs_setPair_x_le rd (by decide) (abs_normq_le _ _) (abs_normq_le _ _) r hr

/-- Every command that completes has results in the symmetric range of their width (R15, R24). -/
theorem exec_symmetricAnswer (i : Instr) (s : State) : SymmetricAnswer i s (exec i s) := by
  cases i with
  | sat16 rd rs1 => exact symmetricAnswer_sat16 rd rs1 s
  | scale rd rs1 rs2 rs3 => exact symmetricAnswer_scale rd rs1 rs2 rs3 s
  | norm rd rs1 rs2 => exact symmetricAnswer_norm rd rs1 rs2 s
  | sincos rd rs1 => exact symmetricAnswer_sincos rd rs1 s
  | polar rd rs1 rs2 => exact symmetricAnswer_polar rd rs1 rs2 s
  | vrot rd rs1 rs2 => exact symmetricAnswer_vrot rd rs1 rs2 s
  | clarke rd rs1 rs2 => exact symmetricAnswer_clarke rd rs1 rs2 s
  | svc rd rs1 rs2 => exact symmetricAnswer_svc rd rs1 rs2 s
  | pid rd rs1 rs2 rs3 n => exact symmetricAnswer_pid rd rs1 rs2 rs3 n s
  | est rd rs1 rs2 mode => exact symmetricAnswer_est rd rs1 rs2 mode s
  | pipe rd rs1 rs2 rs3 mode => exact symmetricAnswer_pipe rd rs1 rs2 rs3 mode s

/-- Settles O34: the minimum integer of a width lies outside that width's symmetric range. -/
theorem resultsAvoidTheSentinel : Obligations.ResultsAvoidTheSentinel := by
  unfold Obligations.ResultsAvoidTheSentinel
  intro i s t hexec hcount
  obtain ⟨hnarrow, hwide⟩ := exec_symmetricAnswer i s t hexec hcount
  refine ⟨fun r hr => ?_, fun r hr => ?_⟩
  · have hlo := (abs_le.mp (hnarrow r hr)).1
    omega
  · have hlo := (abs_le.mp (hwide r hr)).1
    omega

end Sys2Proof.Machine
end

section
/-! PROOFS. The statements of 10_state.md. What a command can do is said once (`exec_cases`), then what a
step can do to STATUS and to the persistent PID state (`step_effect`); the statements about every step are
read off from that. The statements about the window rest on what a served read or write answers. -/

namespace Sys2Proof.Machine

/-! ### What a command can do -/

/-- A command from `s` answers `o`: the fault record of a cause a command can raise, and nothing else; or it
completes in its frame (R276, R277). -/
def FaultsOrCompletes (i : Instr) (s : State) (o : Host.Outcome State Fault Refusal) : Prop :=
  (∃ c, c ≠ .illegal ∧ o = .next (s.takeFault c)) ∨
  (∃ t, o = .next t ∧ Completed i.dests i.ticks s t)

theorem faultsOrCompletes_scale (rd rs1 rs2 rs3 : Reg) (s : State) :
    FaultsOrCompletes (.scale rd rs1 rs2 rs3) s (execScale rd rs1 rs2 rs3 s) := by
  unfold execScale
  split
  · exact .inl ⟨.div0, nofun, rfl⟩
  · exact .inr ⟨_, rfl, completed_setX s rd _⟩

theorem faultsOrCompletes_norm (rd rs1 rs2 : Reg) (s : State) :
    FaultsOrCompletes (.norm rd rs1 rs2) s (execNorm rd rs1 rs2 s) := by
  unfold execNorm
  split
  · exact .inl ⟨.div0, nofun, rfl⟩
  · exact .inr ⟨_, rfl, completed_setX s rd _⟩

theorem faultsOrCompletes_pid (rd rs1 rs2 rs3 : Reg) (n : Inst) (s : State) :
    FaultsOrCompletes (.pid rd rs1 rs2 rs3 n) s (execPid rd rs1 rs2 rs3 n s) := by
  unfold execPid
  dsimp only
  split
  · exact .inl ⟨.precond, nofun, rfl⟩
  · split
    · exact .inl ⟨.range, nofun, rfl⟩
    · exact .inr ⟨_, rfl, completed_pidCommit (completed_setPair s rd _ _) n _⟩

/-- The estimate either raises, or leaves commits of both instances in closed loop and none in open loop;
written with any pair they meet the frame (R230). -/
theorem estCore_cases (closed : Bool) (t0 t1 m0 m1 : Int) (s : State) :
    (∃ c, c ≠ .illegal ∧ estCore closed t0 t1 m0 m1 s = .error c) ∨
    (∃ v, estCore closed t0 t1 m0 m1 s = .ok v ∧ ∀ rd v0 v1,
      Completed [rd, rd + 1] (if closed then [.pid0, .pid1] else []) s
        ((s.setPair rd v0 v1).performCommits v.commits).countCommand) := by
  cases closed with
  | false => exact .inr ⟨_, estCore_open t0 t1 m0 m1 s, fun rd v0 v1 => completed_setPair s rd v0 v1⟩
  | true =>
    obtain ⟨-, e⟩ | ⟨-, -, e⟩ | ⟨-, -, -, e⟩ := estCore_closed t0 t1 m0 m1 s
    · exact .inl ⟨.precond, nofun, e⟩
    · exact .inl ⟨.range, nofun, e⟩
    · exact .inr ⟨_, e, fun rd v0 v1 => completed_performCommits s rd v0 v1 _ _⟩

theorem faultsOrCompletes_est (rd rs1 rs2 : Reg) (mode : Mode) (s : State) :
    FaultsOrCompletes (.est rd rs1 rs2 mode) s (execEst rd rs1 rs2 mode s) := by
  unfold execEst
  obtain ⟨c, hc, e⟩ | ⟨v, e, hframe⟩ :=
    estCore_cases mode.closed (s.x rs1) (s.x (rs1 + 1)) (s.x rs2) (s.x (rs2 + 1)) s <;> rw [e]
  · exact .inl ⟨c, hc, rfl⟩
  · exact .inr ⟨_, rfl, hframe rd v.v0 v.v1⟩

theorem execPipe_eq_voltage (rd rs1 rs2 rs3 : Reg) (closed : Bool) (s : State) :
    execPipe rd rs1 rs2 rs3 ⟨true, closed⟩ s = finish s (pipeVoltage rd rs3 s) := rfl

theorem execPipe_eq_current (rd rs1 rs2 rs3 : Reg) (closed : Bool) (s : State) :
    execPipe rd rs1 rs2 rs3 ⟨false, closed⟩ s = finish s (pipeCurrent rd rs1 rs2 closed s) := rfl

theorem faultsOrCompletes_pipeVoltage (rd rs1 rs2 rs3 : Reg) (closed : Bool) (s : State) :
    FaultsOrCompletes (.pipe rd rs1 rs2 rs3 ⟨true, closed⟩) s (execPipe rd rs1 rs2 rs3 ⟨true, closed⟩ s) := by
  rw [execPipe_eq_voltage]
  unfold pipeVoltage
  dsimp only
  split
  · exact .inl ⟨.div0, nofun, rfl⟩
  · exact .inr ⟨_, rfl, completed_setPair s rd _ _⟩

theorem faultsOrCompletes_pipeCurrent (rd rs1 rs2 rs3 : Reg) (closed : Bool) (s : State) :
    FaultsOrCompletes (.pipe rd rs1 rs2 rs3 ⟨false, closed⟩) s
      (execPipe rd rs1 rs2 rs3 ⟨false, closed⟩ s) := by
  rw [execPipe_eq_current]
  unfold pipeCurrent
  dsimp only
  split
  · exact .inl ⟨.precond, nofun, rfl⟩
  · split
    · exact .inl ⟨.div0, nofun, rfl⟩
    · obtain ⟨c, hc, e⟩ | ⟨v, e, hframe⟩ :=
        estCore_cases closed (polarPair (s.angle rs1) (s.x (rs1 + 1))).1
          (polarPair (s.angle rs1) (s.x (rs1 + 1))).2 (s.x rs2) (s.x (rs2 + 1)) s <;> rw [e]
      · exact .inl ⟨c, hc, rfl⟩
      · exact .inr ⟨_, rfl, hframe rd _ _⟩

theorem faultsOrCompletes_pipe (rd rs1 rs2 rs3 : Reg) (mode : Mode) (s : State) :
    FaultsOrCompletes (.pipe rd rs1 rs2 rs3 mode) s (execPipe rd rs1 rs2 rs3 mode s) := by
  obtain ⟨voltage, closed⟩ := mode
  cases voltage with
  | true => exact faultsOrCompletes_pipeVoltage rd rs1 rs2 rs3 closed s
  | false => exact faultsOrCompletes_pipeCurrent rd rs1 rs2 rs3 closed s

/-- Every command answers a next state: its fault record, or its results in its frame (R276, R277). -/
theorem exec_cases (i : Instr) (s : State) : FaultsOrCompletes i s (exec i s) := by
  cases i with
  | sat16 rd rs1 => exact .inr ⟨_, rfl, completed_setX s rd _⟩
  | scale rd rs1 rs2 rs3 => exact faultsOrCompletes_scale rd rs1 rs2 rs3 s
  | norm rd rs1 rs2 => exact faultsOrCompletes_norm rd rs1 rs2 s
  | sincos rd rs1 => exact .inr ⟨_, rfl, completed_setPair s rd _ _⟩
  | polar rd rs1 rs2 => exact .inr ⟨_, rfl, completed_setPair s rd _ _⟩
  | vrot rd rs1 rs2 => exact .inr ⟨_, rfl, completed_setPair s rd _ _⟩
  | clarke rd rs1 rs2 => exact .inr ⟨_, rfl, completed_setTriple s rd _ _ _⟩
  | svc rd rs1 rs2 => exact .inr ⟨_, rfl, completed_setTriple s rd _ _ _⟩
  | pid rd rs1 rs2 rs3 n => exact faultsOrCompletes_pid rd rs1 rs2 rs3 n s
  | est rd rs1 rs2 mode => exact faultsOrCompletes_est rd rs1 rs2 mode s
  | pipe rd rs1 rs2 rs3 mode => exact faultsOrCompletes_pipe rd rs1 rs2 rs3 mode s

/-- The only change a completed command makes to STATUS is the count (R37). -/
theorem Completed.status_eq {dst : List Reg} {ticks : List Inst} {s t : State}
    (h : Completed dst ticks s t) : t.status = s.status.count := by
  show Status.mk t.status.fault t.status.cause t.status.cmdCnt = _
  rw [h.fault, h.cause, h.count]
  rfl

/-- A CMD write, issued or dropped, answers a next state: the command is dropped, or it faults (an illegal
word too), or it completes (R276, R278). -/
theorem runCommand_outcomes (w : Word) (s : State) :
    (s.status.fault = true ∧ runCommand w s = .next { s.setCmd w with reply := .dropped }) ∨
    (s.status.fault = false ∧ ∃ c, runCommand w s = .next ((s.setCmd w).takeFault c).commandReply) ∨
    (s.status.fault = false ∧ ∃ i t, decode w = .command i ∧
      Completed i.dests i.ticks (s.setCmd w) t ∧ runCommand w s = .next t.commandReply) := by
  obtain ⟨hf, e⟩ | ⟨hf, -, e⟩ | ⟨hf, i, hd, e⟩ := runCommand_cases w s
  · exact .inl ⟨hf, e⟩
  · exact .inr (.inl ⟨hf, _, e⟩)
  · obtain ⟨c, -, e'⟩ | ⟨t, e', hframe⟩ := exec_cases i (s.setCmd w) <;> rw [e'] at e
    · exact .inr (.inl ⟨hf, c, e⟩)
    · exact .inr (.inr ⟨hf, i, t, hd, hframe, e⟩)

/-! ### VSUP_NORM (R42) -/

/-- The state with another value in VSUP_NORM. -/
def State.setVsupNorm (s : State) (v : Word) : State := { s with vsupNorm := v }

section setVsupNorm
/-! The reads are `(rfl)`, which `simp` uses as rewrites and not as definitional steps: the kernel would
otherwise compare whole commands by unfolding their arithmetic. -/

variable (s : State) (v : Word)

@[simp] theorem State.setVsupNorm_x (r : Reg) : (s.setVsupNorm v).x r = s.x r := (rfl)
@[simp] theorem State.setVsupNorm_angle (r : Reg) : (s.setVsupNorm v).angle r = s.angle r := (rfl)
@[simp] theorem State.setVsupNorm_vmaxMv : (s.setVsupNorm v).vmaxMv = s.vmaxMv := (rfl)
@[simp] theorem State.setVsupNorm_pid (n : Inst) : (s.setVsupNorm v).pid n = s.pid n := by cases n <;> rfl
@[simp] theorem State.setVsupNorm_feedbackReady : (s.setVsupNorm v).feedbackReady = s.feedbackReady := (rfl)
@[simp] theorem estCore_setVsupNorm (closed : Bool) (t0 t1 m0 m1 : Int) :
    estCore closed t0 t1 m0 m1 (s.setVsupNorm v) = estCore closed t0 t1 m0 m1 s := (rfl)

@[simp] theorem State.setX_setVsupNorm (r : Reg) (v0 : Int) :
    (s.setVsupNorm v).setX r v0 = (s.setX r v0).setVsupNorm v := (rfl)
@[simp] theorem State.setPair_setVsupNorm (r : Reg) (v0 v1 : Int) :
    (s.setVsupNorm v).setPair r v0 v1 = (s.setPair r v0 v1).setVsupNorm v := (rfl)
@[simp] theorem State.setTriple_setVsupNorm (r : Reg) (v0 v1 v2 : Int) :
    (s.setVsupNorm v).setTriple r v0 v1 v2 = (s.setTriple r v0 v1 v2).setVsupNorm v := (rfl)
@[simp] theorem State.pidCommit_setVsupNorm (n : Inst) (t : PidTick) :
    (s.setVsupNorm v).pidCommit n t = (s.pidCommit n t).setVsupNorm v := by cases n <;> rfl

@[simp] theorem State.performCommits_setVsupNorm (commits : List (Inst × PidTick)) :
    (s.setVsupNorm v).performCommits commits = (s.performCommits commits).setVsupNorm v := by
  induction commits generalizing s with
  | nil => rfl
  | cons commit rest ih =>
    obtain ⟨n, t⟩ := commit
    simp only [State.performCommits, State.pidCommit_setVsupNorm, ih]

/-- Ending a command carries VSUP_NORM through if its writes do. -/
theorem finish_setVsupNorm {r r' : Except Cause State} (h : r' = r.map (·.setVsupNorm v)) :
    finish (s.setVsupNorm v) r' = answerWith (·.setVsupNorm v) (finish s r) := by
  subst h
  cases r <;> rfl

/-- A check that raises before the rest carries VSUP_NORM through if the rest does. -/
theorem check_setVsupNorm {p : Prop} {d d' : Decidable p} {c : Cause} {r r' : Except Cause State}
    (h : r' = r.map (·.setVsupNorm v)) :
    @ite _ p d (.error c) r' = (@ite _ p d' (.error c) r).map (·.setVsupNorm v) := by
  subst h
  split_ifs <;> rfl

end setVsupNorm

/-- The meaning `f` reads nothing of VSUP_NORM and leaves it. -/
def IgnoresVsupNorm (f : State → Host.Outcome State Fault Refusal) : Prop :=
  ∀ s v, f (s.setVsupNorm v) = answerWith (·.setVsupNorm v) (f s)

theorem ignoresVsupNorm_scale (rd rs1 rs2 rs3 : Reg) : IgnoresVsupNorm (execScale rd rs1 rs2 rs3) := by
  intro s v
  refine finish_setVsupNorm s v ?_
  simp only [State.setVsupNorm_x, State.setX_setVsupNorm]
  exact check_setVsupNorm v rfl

theorem ignoresVsupNorm_norm (rd rs1 rs2 : Reg) : IgnoresVsupNorm (execNorm rd rs1 rs2) := by
  intro s v
  refine finish_setVsupNorm s v ?_
  simp only [State.setVsupNorm_x, State.setX_setVsupNorm]
  exact check_setVsupNorm v rfl

theorem ignoresVsupNorm_svc (rd rs1 rs2 : Reg) : IgnoresVsupNorm (execSvc rd rs1 rs2) := by
  intro s v
  simp only [execSvc, State.setVsupNorm_x, State.setTriple_setVsupNorm]
  exact finish_setVsupNorm s v rfl

theorem ignoresVsupNorm_pid (rd rs1 rs2 rs3 : Reg) (n : Inst) :
    IgnoresVsupNorm (execPid rd rs1 rs2 rs3 n) := by
  intro s v
  refine finish_setVsupNorm s v ?_
  simp only [State.setVsupNorm_x, State.setVsupNorm_pid, State.setPair_setVsupNorm,
    State.pidCommit_setVsupNorm]
  exact check_setVsupNorm v (check_setVsupNorm v rfl)

theorem ignoresVsupNorm_est (rd rs1 rs2 : Reg) (mode : Mode) : IgnoresVsupNorm (execEst rd rs1 rs2 mode) := by
  intro s v
  refine finish_setVsupNorm s v ?_
  simp only [State.setVsupNorm_x, estCore_setVsupNorm, State.setPair_setVsupNorm,
    State.performCommits_setVsupNorm]
  cases estCore mode.closed (s.x rs1) (s.x (rs1 + 1)) (s.x rs2) (s.x (rs2 + 1)) s <;> rfl

theorem pipeVoltage_setVsupNorm (rd rs3 : Reg) (s : State) (v : Word) :
    pipeVoltage rd rs3 (s.setVsupNorm v) = (pipeVoltage rd rs3 s).map (·.setVsupNorm v) := by
  simp only [pipeVoltage, State.setVsupNorm_x, State.setVsupNorm_vmaxMv, State.setPair_setVsupNorm]
  exact check_setVsupNorm v rfl

theorem pipeCurrent_setVsupNorm (rd rs1 rs2 : Reg) (closed : Bool) (s : State) (v : Word) :
    pipeCurrent rd rs1 rs2 closed (s.setVsupNorm v) =
      (pipeCurrent rd rs1 rs2 closed s).map (·.setVsupNorm v) := by
  simp only [pipeCurrent, State.setVsupNorm_x, State.setVsupNorm_angle, State.setVsupNorm_vmaxMv,
    State.setVsupNorm_feedbackReady, estCore_setVsupNorm, State.setPair_setVsupNorm,
    State.performCommits_setVsupNorm]
  refine check_setVsupNorm v (check_setVsupNorm v ?_)
  cases estCore closed (polarPair (s.angle rs1) (s.x (rs1 + 1))).1
    (polarPair (s.angle rs1) (s.x (rs1 + 1))).2 (s.x rs2) (s.x (rs2 + 1)) s <;> rfl

theorem ignoresVsupNorm_pipe (rd rs1 rs2 rs3 : Reg) (mode : Mode) :
    IgnoresVsupNorm (execPipe rd rs1 rs2 rs3 mode) := by
  intro s v
  obtain ⟨voltage, closed⟩ := mode
  cases voltage with
  | true =>
    rw [execPipe_eq_voltage, execPipe_eq_voltage]
    exact finish_setVsupNorm s v (pipeVoltage_setVsupNorm rd rs3 s v)
  | false =>
    rw [execPipe_eq_current, execPipe_eq_current]
    exact finish_setVsupNorm s v (pipeCurrent_setVsupNorm rd rs1 rs2 closed s v)

theorem exec_ignoresVsupNorm (i : Instr) : IgnoresVsupNorm (exec i) := by
  cases i with
  | sat16 rd rs1 => exact fun _ _ => rfl
  | scale rd rs1 rs2 rs3 => exact ignoresVsupNorm_scale rd rs1 rs2 rs3
  | norm rd rs1 rs2 => exact ignoresVsupNorm_norm rd rs1 rs2
  | sincos rd rs1 => exact fun _ _ => rfl
  | polar rd rs1 rs2 => exact fun _ _ => rfl
  | vrot rd rs1 rs2 => exact fun _ _ => rfl
  | clarke rd rs1 rs2 => exact fun _ _ => rfl
  | svc rd rs1 rs2 => exact ignoresVsupNorm_svc rd rs1 rs2
  | pid rd rs1 rs2 rs3 n => exact ignoresVsupNorm_pid rd rs1 rs2 rs3 n
  | est rd rs1 rs2 mode => exact ignoresVsupNorm_est rd rs1 rs2 mode
  | pipe rd rs1 rs2 rs3 mode => exact ignoresVsupNorm_pipe rd rs1 rs2 rs3 mode

/-- Settles O35: no command's checks or writes read VSUP_NORM, so the answer carries it through. -/
theorem vsupNormHasNoEffect : Obligations.VsupNormHasNoEffect := by
  unfold Obligations.VsupNormHasNoEffect
  intro i s v
  obtain ⟨t, e⟩ : ∃ t, exec i s = .next t := by
    obtain ⟨c, -, e⟩ | ⟨t, e, -⟩ := exec_cases i s
    · exact ⟨_, e⟩
    · exact ⟨t, e⟩
  refine ⟨t, e, ?_⟩
  calc exec i (s.setVsupNorm v) = answerWith (·.setVsupNorm v) (exec i s) := exec_ignoresVsupNorm i s v
    _ = .next (t.setVsupNorm v) := by rw [e]; rfl

/-! ### What a step can do to STATUS and to the persistent PID state -/

/-- Reset acts in the next step: the input is driven high, driven low after being high, or held high with
nothing pending (R300). -/
def ResetActs (s : State) : Prop :=
  (∃ level rest, s.bus = .resetLine level :: rest ∧ (level = true ∨ s.inReset = true)) ∨
  (s.bus = [] ∧ s.inReset = true)

/-- INTEG and PREV of PID `n` are the same in `t` as in `s` (R51). -/
def PidStateKept (n : Inst) (s t : State) : Prop :=
  (t.pid n).integ = (s.pid n).integ ∧ (t.pid n).prev = (s.pid n).prev

theorem pidStateKept_of_pid_eq {s t : State} (h0 : t.pid0 = s.pid0) (h1 : t.pid1 = s.pid1) (n : Inst) :
    PidStateKept n s t := by
  cases n with
  | pid0 => exact ⟨congrArg Pid.integ h0, congrArg Pid.prev h0⟩
  | pid1 => exact ⟨congrArg Pid.integ h1, congrArg Pid.prev h1⟩

/-- What a step from `s` to `t` did to STATUS and to INTEG and PREV. -/
inductive StepEffect (s t : State) : Prop
  /-- Reset acted. -/
  | reset (acts : ResetActs s) (status : t.status = Status.reset)
  /-- No command was written; at most the fault was cleared (R36). -/
  | quiet (noCommand : ∀ w rest, s.bus ≠ .write 0x040 4 w :: rest)
      (status : t.status = s.status ∨ t.status = s.status.clear) (kept : ∀ n, PidStateKept n s t)
  /-- A command was dropped (R278). -/
  | dropped (fault : s.status.fault = true) (status : t.status = s.status)
      (kept : ∀ n, PidStateKept n s t)
  /-- A command, or a word that is none, faulted (R276). -/
  | faulted (c : Cause) (status : t.status = s.status.raise c) (kept : ∀ n, PidStateKept n s t)
  /-- A command completed (R37, R276). -/
  | completed (w : Word) (rest : List HostEvent) (i : Instr) (issued : s.bus = .write 0x040 4 w :: rest)
      (fault : s.status.fault = false) (decoded : decode w = .command i)
      (status : t.status = s.status.count) (kept : ∀ n, n ∉ i.ticks → PidStateKept n s t)

theorem State.idle_of_not_inReset {s : State} (h : s.inReset = false) : s.idle = s := by
  simp [State.idle, h]

theorem State.idle_of_inReset {s : State} (h : s.inReset = true) : s.idle = s.resetRegisters := by
  simp [State.idle, h]

theorem State.driveReset_low_of_low {s : State} (h : s.inReset = false) : s.driveReset false = s := by
  simp [State.driveReset, h]

theorem State.driveReset_of_acts {s : State} {level : Bool} (h : level = true ∨ s.inReset = true) :
    s.driveReset level = { s.resetRegisters with inReset := level } := by
  simp [State.driveReset, h]

theorem State.windowStore_of_status (s : State) (v : Word) :
    s.windowStore .status v = if v.getLsbD 0 && s.status.fault then s.clearFault else s := rfl

theorem State.windowStore_status (s : State) (r : WindowReg) (v : Word) :
    (s.windowStore r v).status = s.status ∨ (s.windowStore r v).status = s.status.clear := by
  cases r with
  | status =>
    rw [State.windowStore_of_status]
    split
    · exact .inr rfl
    · exact .inl rfl
  | pid n f => exact .inl (State.setPid_status s n _)
  | _ => exact .inl rfl

/-- No host write reaches INTEG or PREV (R51, R76). -/
theorem State.windowStore_pidStateKept (s : State) (r : WindowReg) (v : Word) (n : Inst) :
    PidStateKept n s (s.windowStore r v) := by
  cases r with
  | status =>
    rw [State.windowStore_of_status]
    split <;> exact pidStateKept_of_pid_eq rfl rfl n
  | pid m f =>
    change PidStateKept n s (s.setPid m ((s.pid m).hostWrite f v))
    unfold PidStateKept
    by_cases hn : n = m
    · subst hn
      rw [State.setPid_pid_same]
      cases f <;> exact ⟨rfl, rfl⟩
    · rw [State.setPid_pid_other s _ hn]
      exact ⟨rfl, rfl⟩
  | _ => exact pidStateKept_of_pid_eq rfl rfl n

theorem stepEffect_idle {s : State} (hb : s.bus = []) : StepEffect s s.idle := by
  cases hr : s.inReset with
  | true =>
    rw [State.idle_of_inReset hr]
    exact .reset (.inr ⟨hb, hr⟩) rfl
  | false =>
    rw [State.idle_of_not_inReset hr]
    exact .quiet (by simp [hb]) (.inl rfl) (pidStateKept_of_pid_eq rfl rfl)

theorem stepEffect_resetLine {s : State} {level : Bool} {rest : List HostEvent}
    (hb : s.bus = .resetLine level :: rest) :
    StepEffect s (State.driveReset { s with bus := rest } level) := by
  by_cases hacts : level = true ∨ s.inReset = true
  · rw [State.driveReset_of_acts (s := { s with bus := rest }) hacts]
    exact .reset (.inl ⟨level, rest, hb, hacts⟩) rfl
  · simp only [not_or, Bool.not_eq_true] at hacts
    obtain ⟨rfl, hr⟩ := hacts
    rw [State.driveReset_low_of_low (s := { s with bus := rest }) hr]
    exact .quiet (by simp [hb]) (.inl rfl) (pidStateKept_of_pid_eq rfl rfl)

theorem stepEffect_cmdWrite {s t : State} {w : Word} {rest : List HostEvent}
    (hb : s.bus = .write 0x040 4 w :: rest) (h : runCommand w { s with bus := rest } = .next t) :
    StepEffect s t := by
  obtain ⟨hf, e⟩ | ⟨-, c, e⟩ | ⟨hf, i, u, hd, hframe, e⟩ := runCommand_outcomes w { s with bus := rest } <;>
    rw [e] at h <;> cases h
  · exact .dropped hf rfl (pidStateKept_of_pid_eq rfl rfl)
  · exact .faulted c rfl (pidStateKept_of_pid_eq rfl rfl)
  · exact .completed w rest i hb hf hd hframe.status_eq hframe.pidState

/-- Every step that answers a next state has one of the effects. -/
theorem step_effect {s t : State} (h : step s = .next t) : StepEffect s t := by
  obtain ⟨hb, rfl⟩ | ⟨level, rest, hb, rfl⟩ | ⟨off, bytes, r, rest, hb, -, -, rfl⟩ |
    ⟨off, bytes, v, r, rest, hb, -, ht, hr, rfl⟩ | ⟨w, rest, hb, -, hrun⟩ := step_cases h
  · exact stepEffect_idle hb
  · exact stepEffect_resetLine hb
  · exact .quiet (by simp [hb]) (.inl rfl) (pidStateKept_of_pid_eq rfl rfl)
  · refine .quiet ?_ (State.windowStore_status { s with bus := rest } r v)
      (State.windowStore_pidStateKept { s with bus := rest } r v)
    rintro w rest' hw
    rw [hb] at hw
    obtain ⟨⟨rfl, rfl, -⟩, -⟩ : (off = 0x040 ∧ bytes = 4 ∧ v = w) ∧ rest = rest' := by simpa using hw
    exact hr (Except.ok.inj ht).symm
  · exact stepEffect_cmdWrite hb hrun

/-! ### The statements about every step -/

theorem Cause.code_bounds (c : Cause) : c.code.toNat ≤ 4 ∧ c.code ≠ 0 := by
  cases c <;> decide

/-- Settles O40: every field of STATUS is 0. -/
theorem resetMeetsStatusInvariant : Obligations.ResetMeetsStatusInvariant := by
  unfold Obligations.ResetMeetsStatusInvariant
  decide

/-- Settles O39, by the effects a step can have on STATUS: a fault sets FAULT with a code from 1 to 4, a
clear zeroes both fields, and a completed command leaves both. -/
theorem everyStepKeepsStatusInvariant : Obligations.EveryStepKeepsStatusInvariant := by
  unfold Obligations.EveryStepKeepsStatusInvariant State.StatusInv
  intro s t hinv hstep
  cases step_effect hstep with
  | reset _ status => rw [status]; exact resetMeetsStatusInvariant.1
  | quiet _ status _ =>
    obtain status | status := status <;> rw [status]
    · exact hinv
    · exact ⟨Nat.zero_le 4, iff_of_true rfl rfl⟩
  | dropped _ status _ => rw [status]; exact hinv
  | faulted c status _ =>
    obtain ⟨hle, hne⟩ := c.code_bounds
    rw [status]
    exact ⟨hle, iff_of_false Bool.noConfusion hne⟩
  | completed _ _ _ _ _ _ status _ => rw [status]; exact hinv

/-- Settles O36: only reset and a completed command change the persistent state, the command that of the
instances it ticks. -/
theorem pidStateHasOneOwner : Obligations.PidStateHasOneOwner := by
  unfold Obligations.PidStateHasOneOwner
  intro s t n hstep hchanged
  have hchanged : ¬PidStateKept n s t := by rwa [PidStateKept, not_and_or]
  cases step_effect hstep with
  | reset acts _ =>
    obtain hline | hheld := acts
    · exact .inl hline
    · exact .inr (.inl hheld)
  | quiet _ _ kept => exact absurd (kept n) hchanged
  | dropped _ _ kept => exact absurd (kept n) hchanged
  | faulted _ _ kept => exact absurd (kept n) hchanged
  | completed w rest i issued fault decoded _ kept =>
    have hticks : n ∈ i.ticks := not_imp_comm.mp (kept n) hchanged
    exact .inr (.inr ⟨w, rest, i, issued, fault, decoded, hticks⟩)

theorem not_counted_of_eq {s t : State} (h : t.status.cmdCnt = s.status.cmdCnt) : ¬Counted s t := by
  unfold Counted
  bv_omega

/-- A step that keeps CMDCNT and completes no command agrees with the rule of the counter. -/
theorem counts_iff_of_cmdCnt_eq {s t : State} {completes : Prop} (h : t.status.cmdCnt = s.status.cmdCnt)
    (hnot : ¬completes) : (Counted s t ↔ completes) ∧ (¬Counted s t → t.status.cmdCnt = s.status.cmdCnt) :=
  ⟨iff_of_false (not_counted_of_eq h) hnot, fun _ => h⟩

/-- Settles O37: of the effects a step can have outside reset, only a completed command counts, and only it
leaves FAULT = 0 after a command was issued. -/
theorem commandCounterCountsCompletions : Obligations.CommandCounterCountsCompletions := by
  unfold Obligations.CommandCounterCountsCompletions
  intro s t hstep hlow hassert
  cases step_effect hstep with
  | reset acts _ =>
    obtain ⟨level, rest, hb, rfl | hhigh⟩ | ⟨-, hhigh⟩ := acts
    · exact absurd hb (hassert rest)
    · simp [hlow] at hhigh
    · simp [hlow] at hhigh
  | quiet noCommand status _ =>
    refine counts_iff_of_cmdCnt_eq ?_ fun ⟨w, rest, _, hb, _⟩ => noCommand w rest hb
    obtain status | status := status <;> rw [status]
    rfl
  | dropped fault status _ =>
    refine counts_iff_of_cmdCnt_eq (by rw [status]) fun ⟨_, _, _, _, hclear, _⟩ => ?_
    simp [fault] at hclear
  | faulted c status _ =>
    refine counts_iff_of_cmdCnt_eq (by rw [status]; rfl) fun ⟨_, _, _, _, _, _, hclear⟩ => ?_
    simp [status] at hclear
  | completed w rest i issued fault decoded status _ =>
    have hcount : Counted s t := by rw [Counted, status]; rfl
    have hclear : t.status.fault = false := by rw [status]; exact fault
    exact ⟨iff_of_true hcount ⟨w, rest, i, issued, fault, decoded, hclear⟩, fun hn => absurd hcount hn⟩

/-! ### The register window -/

/-- A served read answers the register's word and changes nothing of the block (R74, R77). -/
theorem step_read {s : State} {off : Offset} {bytes : Nat} {r : WindowReg} {rest : List HostEvent}
    (hr : s.inReset = false) (hb : s.bus = .read off bytes :: rest) (ht : target off bytes = .ok r) :
    step s = .next { s with bus := rest, reply := .value (s.windowRead r) } := by
  have hread : s.windowRead r = State.windowRead { s with bus := rest } r := by cases r <;> rfl
  rw [step, hb, hread]
  simp [hostAction, hr, hostRead, ht]

/-- A served write to a register other than CMD stores (R74, R77). -/
theorem step_store {s : State} {off : Offset} {bytes : Nat} {v : Word} {r : WindowReg}
    {rest : List HostEvent} (hr : s.inReset = false) (hb : s.bus = .write off bytes v :: rest)
    (ht : target off bytes = .ok r) (hcmd : r ≠ .cmd) :
    step s = .next { State.windowStore s r v with bus := rest, reply := .written } := by
  have hwrite : step s = windowWrite r v { s with bus := rest } := by
    rw [step, hb]
    simp [hostAction, hr, hostWrite, ht]
  rw [hwrite]
  cases r with
  | cmd => exact absurd rfl hcmd
  | status =>
    simp only [windowWrite, State.windowStore_of_status]
    split <;> rfl
  | pid n f => cases n <;> rfl
  | _ => rfl

/-- The fourteen writable configuration registers at their offsets (R40, R41, R50). -/
def configRegs : List (Offset × WindowReg) :=
  [(0x050, .vsupMv), (0x054, .vmaxMv), (0x058, .vsupNorm), (0x05C, .resMohm),
    (0x060, .pid .pid0 .kp), (0x064, .pid .pid0 .ki), (0x068, .pid .pid0 .kd), (0x06C, .pid .pid0 .kff),
    (0x070, .pid .pid0 .iclamp), (0x080, .pid .pid1 .kp), (0x084, .pid .pid1 .ki), (0x088, .pid .pid1 .kd),
    (0x08C, .pid .pid1 .kff), (0x090, .pid .pid1 .iclamp)]

theorem target_configRegs : ∀ p ∈ configRegs, target p.1 4 = .ok p.2 ∧ p.2 ≠ .cmd := by decide

/-- Settles O49: each configuration register stands at its offset, and storing changes it alone. -/
theorem configurationWritesStore : Obligations.ConfigurationWritesStore := by
  unfold Obligations.ConfigurationWritesStore
  intro s off v u rest hr hmem hb
  obtain ⟨p, hp, heq⟩ : ∃ p ∈ configRegs, (p.1, s.windowStore p.2 v) = (off, u) := List.mem_map.mp hmem
  obtain ⟨rfl, rfl⟩ := Prod.mk.inj heq
  obtain ⟨ht, hcmd⟩ := target_configRegs p hp
  exact step_store hr hb ht hcmd

/-- Settles O52: the store to STATUS clears exactly under the two conditions. -/
theorem statusWriteClearsFault : Obligations.StatusWriteClearsFault := by
  unfold Obligations.StatusWriteClearsFault
  intro s w rest hr hb
  have hstep := step_store (r := .status) hr hb rfl nofun
  rw [State.windowStore_of_status] at hstep
  refine ⟨fun hbit hfault => ?_, fun h => ?_⟩
  · rw [hstep, hbit, hfault]
    rfl
  · have hno : (w.getLsbD 0 && s.status.fault) = false := Bool.and_eq_false_iff.mpr h
    rw [hstep, hno]
    rfl

/-- A field of STATUS is what the sum of the fields at their places holds there (R35). -/
theorem Status.word_extract_eq (t : Status) (lo len : Nat) {f : BitVec len}
    (h : (t.cmdCnt.toNat * 2 ^ 16 + t.cause.toNat * 2 ^ 4 + t.fault.toNat) / 2 ^ lo % 2 ^ len = f.toNat) :
    t.word.extractLsb' lo len = f := by
  refine BitVec.eq_of_toNat_eq ?_
  rw [BitVec.extractLsb'_toNat, Status.word_toNat, Nat.shiftRight_eq_div_pow, h]

theorem Status.word_bit_zero (t : Status) : t.word.getLsbD 0 = t.fault := by
  rw [BitVec.getLsbD, Status.word_toNat, Nat.testBit_zero]
  cases t.fault with
  | false => simp only [Bool.toNat_false, decide_eq_false_iff_not]; omega
  | true => simp only [Bool.toNat_true, decide_eq_true_eq]; omega

/-- Settles O51: each field is cut out of the sum that STATUS reads as. -/
theorem statusReadsItsFields : Obligations.StatusReadsItsFields := by
  unfold Obligations.StatusReadsItsFields
  intro s rest hr hb
  have hcause : s.status.cause.toNat < 16 := s.status.cause.isLt
  have hcnt : s.status.cmdCnt.toNat < 65536 := s.status.cmdCnt.isLt
  have hfault := s.status.fault.toNat_lt
  refine ⟨s.status.word, step_read (r := .status) hr hb rfl, s.status.word_bit_zero, ?_, ?_, ?_, ?_⟩
  · exact s.status.word_extract_eq 1 3 (f := 0#3) (by rw [BitVec.toNat_zero]; omega)
  · exact s.status.word_extract_eq 4 4 (by omega)
  · exact s.status.word_extract_eq 8 8 (f := 0#8) (by rw [BitVec.toNat_zero]; omega)
  · exact s.status.word_extract_eq 16 16 (by omega)

/-- A CMD write answers a next state in which CMD holds the word, whatever became of the command (R34). -/
theorem runCommand_cmd (w : Word) (s : State) :
    ∃ t, runCommand w s = .next t ∧ t.cmd = w ∧ t.inReset = s.inReset ∧ t.bus = s.bus := by
  obtain ⟨-, e⟩ | ⟨-, c, e⟩ | ⟨-, i, t, -, hframe, e⟩ := runCommand_outcomes w s
  · exact ⟨_, e, rfl, rfl, rfl⟩
  · exact ⟨_, e, rfl, rfl, rfl⟩
  · exact ⟨_, e, hframe.cmd, hframe.inReset, hframe.bus⟩

/-- Settles O53: after the write CMD holds the word and the read is pending. -/
theorem cmdReadsBackTheLastWord : Obligations.CmdReadsBackTheLastWord := by
  unfold Obligations.CmdReadsBackTheLastWord
  intro s w rest hr hb
  obtain ⟨t, ht, hcmd, hreset, hbus⟩ := runCommand_cmd w { s with bus := .read 0x040 4 :: rest }
  have hread := step_read (r := .cmd) (hreset.trans hr) hbus rfl
  exact ⟨t, _, (step_cmdWrite hb hr).trans ht, hread, congrArg Reply.value hcmd, rfl⟩

/-- Settles O42: every register but ID and PARAM is 0 at reset. -/
theorem resetValuesAreZero : Obligations.ResetValuesAreZero := by
  unfold Obligations.ResetValuesAreZero
  intro r
  cases r with
  | data i =>
    change (Vector.replicate 16 (0 : Word))[i] = 0
    simp
  | pid n f => cases n <;> cases f <;> rfl
  | _ => rfl

end Sys2Proof.Machine
end

section
/-! PROOFS. The statements of 20_memory.md. An access is either served, which always answers a next state, or
answered with a BUSERR; the statements about single offsets name the register that stands at each and cite what
a served read or write does (`step_read`, `step_store`). -/

namespace Sys2Proof.Machine

/-! ### Which accesses are served, and what becomes of them (R74, R75) -/

/-- A store reaches registers only, not the reset input (R77, R300). -/
theorem State.windowStore_inReset (s : State) (r : WindowReg) (v : Word) :
    (s.windowStore r v).inReset = s.inReset := by
  cases r with
  | status =>
    rw [State.windowStore_of_status]
    split <;> rfl
  | pid n f => exact State.setPid_inReset s n _
  | _ => rfl

section access
variable {s : State} {off : Offset} {bytes : Nat} {v : Word} {rest : List HostEvent}

/-- A served access, a command too, answers a next state, outside reset and with the access taken. -/
theorem step_served (hr : s.inReset = false)
    (hb : s.bus = .read off bytes :: rest ∨ s.bus = .write off bytes v :: rest)
    (hs : served off bytes = true) : ∃ t, step s = .next t ∧ t.inReset = false ∧ t.bus = rest := by
  obtain ⟨r, ht⟩ := (target_ok_iff off bytes).mpr hs
  obtain hb | hb := hb
  · exact ⟨_, step_read hr hb ht, hr, rfl⟩
  · by_cases hcmd : r = .cmd
    · subst hcmd
      obtain ⟨rfl, rfl⟩ := target_eq_cmd ht
      obtain ⟨t, e, -, hreset, hbus⟩ := runCommand_cmd v { s with bus := rest }
      exact ⟨t, (step_cmdWrite hb hr).trans e, hreset.trans hr, hbus⟩
    · exact ⟨_, step_store hr hb ht hcmd, (s.windowStore_inReset r v).trans hr, rfl⟩

/-- An access that reaches no register ends in the BUSERR that answers it (R74, R75). -/
theorem step_busErr {f : Fault} (hr : s.inReset = false)
    (hb : s.bus = .read off bytes :: rest ∨ s.bus = .write off bytes v :: rest)
    (ht : target off bytes = .error f) : step s = .fault f := by
  obtain hb | hb := hb <;> rw [step, hb]
  · simp [hostAction, hr, hostRead, ht]
  · simp [hostAction, hr, hostWrite, ht]

end access

theorem target_wrongWidth {off : Offset} {bytes : Nat} (hw : bytes ≠ 4) :
    target off bytes = .error .busErrWidth := if_pos hw

theorem target_misaligned {off : Offset} (ha : off.toNat % 4 ≠ 0) :
    target off 4 = .error .busErrAlign := if_pos ha

theorem target_unmapped {off : Offset} (ha : off.toNat % 4 = 0) (hm : 0x0A4 ≤ off.toNat) :
    target off 4 = .error .busErrUnmapped := by
  have hnone : windowMap (off.toNat / 4) = none := (windowMap_eq_none _).mpr (by omega)
  simp [target, ha, hnone]

/-- Settles O54: the access reaches no register, for the first of the three reasons that applies, or it is
served. -/
theorem badAccessIsBusError : Obligations.BadAccessIsBusError := by
  unfold Obligations.BadAccessIsBusError
  intro s off bytes v rest hr hb
  refine ⟨fun hw => step_busErr hr hb (target_wrongWidth hw), ?_, ?_, ?_⟩
  · rintro rfl ha
    exact step_busErr hr hb (target_misaligned ha)
  · rintro rfl ha hm
    exact step_busErr hr hb (target_unmapped ha hm)
  · rintro rfl ha hm
    obtain ⟨t, ht, -⟩ := step_served hr hb (by simp [served, ha, hm])
    exact ⟨t, ht⟩

/-! ### A host that keeps the rules -/

theorem step_idle {s : State} (hb : s.bus = []) : step s = .next s.idle := by rw [step, hb]

theorem State.idle_bus (s : State) : s.idle.bus = s.bus := by
  unfold State.idle
  split <;> rfl

theorem step_resetLine {s : State} {level : Bool} {rest : List HostEvent}
    (hb : s.bus = .resetLine level :: rest) :
    step s = .next (State.driveReset { s with bus := rest } level) := by
  rw [step, hb]
  rfl

/-- Driving the reset input leaves it at the level driven, and the pending actions as they are (R300). -/
theorem State.driveReset_inReset_bus (s : State) (level : Bool) :
    (s.driveReset level).inReset = level ∧ (s.driveReset level).bus = s.bus := by
  by_cases hacts : level = true ∨ s.inReset = true
  · rw [State.driveReset_of_acts hacts]
    exact ⟨rfl, rfl⟩
  · simp only [not_or, Bool.not_eq_true] at hacts
    obtain ⟨rfl, hr⟩ := hacts
    rw [State.driveReset_low_of_low hr]
    exact ⟨hr, rfl⟩

/-- A pending access that keeps the rules is served, and the actions after it still keep them. -/
theorem step_access_keeps_hostOk {s : State} {off : Offset} {bytes : Nat} {v : Word} {rest : List HostEvent}
    (hb : s.bus = .read off bytes :: rest ∨ s.bus = .write off bytes v :: rest)
    (hok : hostOk s.inReset s.bus = true) : ∃ t, step s = .next t ∧ hostOk t.inReset t.bus = true := by
  obtain ⟨hr, hs, hrest⟩ : s.inReset = false ∧ served off bytes = true ∧ hostOk s.inReset rest = true := by
    obtain hb' | hb' := hb <;> simpa [hb', hostOk, and_assoc] using hok
  obtain ⟨t, ht, hr', hbus⟩ := step_served hr hb hs
  exact ⟨t, ht, by rwa [hr', hbus, ← hr]⟩

/-- Settles O41, by the host's oldest pending action: none, a served access, or the reset input, which takes
the level that the actions after it are judged by. -/
theorem ruleKeepingHostIsNeverStopped : Obligations.RuleKeepingHostIsNeverStopped := by
  unfold Obligations.RuleKeepingHostIsNeverStopped
  intro s hok
  cases hb : s.bus with
  | nil => exact ⟨s.idle, step_idle hb, by rw [State.idle_bus, hb, hostOk]⟩
  | cons e rest =>
    cases e with
    | read off bytes => exact step_access_keeps_hostOk (v := 0) (.inl hb) hok
    | write off bytes v => exact step_access_keeps_hostOk (.inr hb) hok
    | resetLine level =>
      obtain ⟨hlevel, hbus⟩ := State.driveReset_inReset_bus { s with bus := rest } level
      have hrest : hostOk level rest = true := by rwa [hb, hostOk] at hok
      exact ⟨_, step_resetLine hb, by rwa [hlevel, hbus]⟩

/-! ### Reads (R72, R73, R77) -/

/-- What a register reads does not depend on the reset input, the host's pending actions or the last reply. -/
theorem State.windowRead_of_host (s : State) (r : WindowReg) (b : Bool) (l : List HostEvent) (a : Reply) :
    State.windowRead { s with inReset := b, bus := l, reply := a } r = s.windowRead r := by
  cases r <;> rfl

/-- Settles O55: the first read changes only the host's side, which no register's value depends on. -/
theorem readsHaveNoSideEffects : Obligations.ReadsHaveNoSideEffects := by
  unfold Obligations.ReadsHaveNoSideEffects
  intro s t off bytes rest hb hstep
  obtain ⟨r, hr, ht, rfl⟩ : ∃ r, s.inReset = false ∧ target off bytes = .ok r ∧
      t = { s with bus := .read off bytes :: rest, reply := .value (s.windowRead r) } := by
    obtain ⟨hb', -⟩ | ⟨_, _, hb', -⟩ | ⟨_, _, r, _, hb', hr, ht, e⟩ | ⟨_, _, _, _, _, hb', -⟩ |
      ⟨_, _, hb', -⟩ := step_cases hstep <;> rw [hb] at hb' <;> cases hb'
    exact ⟨r, hr, ht, e⟩
  refine ⟨⟨_, rfl, rfl⟩, _, step_read hr rfl ht, ?_⟩
  exact congrArg Reply.value (s.windowRead_of_host r _ _ _)

/-- The offset of lane `j` of a mapped word does not wrap. -/
theorem wordOffset_toNat {k j : Nat} (hk : k ≤ 40) (hj : j < 4) :
    (BitVec.ofNat 12 (4 * k + j)).toNat = 4 * k + j := by
  rw [BitVec.toNat_ofNat, Nat.mod_eq_of_lt (by omega)]

theorem windowMap_le {k : Nat} {r : WindowReg} (h : windowMap k = some r) : k ≤ 40 := by
  have := (windowMap_eq_none k).not.mp (by simp [h])
  omega

/-- The register of word number `k` is reached at offset 4k (R71). -/
theorem target_word {k : Nat} {r : WindowReg} (h : windowMap k = some r) :
    target (BitVec.ofNat 12 (4 * k)) 4 = .ok r := by
  have hoff : (BitVec.ofNat 12 (4 * k)).toNat = 4 * k :=
    wordOffset_toNat (j := 0) (windowMap_le h) (by decide)
  simp [target, hoff, h]

/-- The byte shown at offset 4k + j is lane `j` of the register of word number `k` (R73). -/
theorem State.windowByte_word (s : State) {k : Nat} {r : WindowReg} (h : windowMap k = some r) (j : Fin 4) :
    s.windowByte (BitVec.ofNat 12 (4 * k + j.val)) = some ((s.windowRead r).extractLsb' (8 * j.val) 8) := by
  have hj := j.isLt
  have hdiv : (4 * k + j.val) / 4 = k := by omega
  have hmod : (4 * k + j.val) % 4 = j.val := by omega
  rw [State.windowByte, wordOffset_toNat (windowMap_le h) hj, hdiv, hmod, h]
  exact wordLanes_get _ _ hj

/-- The four byte lanes of a word make up the word (R73). -/
theorem ofLanes_wordLanes (w : Word) : ofLanes (wordLanes w) = w := by
  change w.extractLsb' 24 8 ++ w.extractLsb' 16 8 ++ w.extractLsb' 8 8 ++ w.extractLsb' 0 8 = w
  rw [BitVec.extractLsb'_append_extractLsb'_eq_extractLsb' (show 24 = 16 + 8 from rfl),
    BitVec.extractLsb'_append_extractLsb'_eq_extractLsb' (show 16 = 8 + 8 from rfl),
    BitVec.extractLsb'_append_extractLsb'_eq_extractLsb' (show 8 = 0 + 8 from rfl)]
  exact BitVec.extractLsb'_eq_self

/-- Settles O56: a read of offset 4k answers the word of the register there, and the byte shown at offset
4k + j is that word's lane. -/
theorem windowIsLittleEndian : Obligations.WindowIsLittleEndian := by
  unfold Obligations.WindowIsLittleEndian
  refine ⟨fun s t k j w hk hstep hreply => ?_, fun s i j => ?_, ofLanes_wordLanes⟩
  · obtain ⟨r, hr⟩ := Option.ne_none_iff_exists'.mp ((windowMap_eq_none k).not.mpr (by omega))
    rw [step_read rfl rfl (target_word hr), State.windowRead_of_host] at hstep
    cases hstep
    obtain rfl : s.windowRead r = w := Reply.value.inj hreply
    exact s.windowByte_word hr j
  · exact s.windowByte_word (windowMap_data i) j

/-- The register at each mapped offset from 0x040 on (R34, R35, R38, R40, R41, R44, R45, R50, R76). -/
def controlRegs : List (Offset × WindowReg) :=
  [(0x040, .cmd), (0x044, .status), (0x048, .faultCmd), (0x04C, .id), (0x050, .vsupMv), (0x054, .vmaxMv),
    (0x058, .vsupNorm), (0x05C, .resMohm),
    (0x060, .pid .pid0 .kp), (0x064, .pid .pid0 .ki), (0x068, .pid .pid0 .kd), (0x06C, .pid .pid0 .kff),
    (0x070, .pid .pid0 .iclamp), (0x074, .pid .pid0 .integ), (0x078, .pid .pid0 .prev), (0x07C, .reserved .pid0),
    (0x080, .pid .pid1 .kp), (0x084, .pid .pid1 .ki), (0x088, .pid .pid1 .kd), (0x08C, .pid .pid1 .kff),
    (0x090, .pid .pid1 .iclamp), (0x094, .pid .pid1 .integ), (0x098, .pid .pid1 .prev),
    (0x09C, .reserved .pid1), (0x0A0, .param)]

theorem target_controlRegs : ∀ p ∈ controlRegs, target p.1 4 = .ok p.2 := by decide

/-- Settles O48: each control register stands at its offset, and a read replies its word. -/
theorem windowReadsTheRegisterMap : Obligations.WindowReadsTheRegisterMap := by
  unfold Obligations.WindowReadsTheRegisterMap
  intro s off w rest hr hmem hb
  obtain ⟨p, hp, heq⟩ : ∃ p ∈ controlRegs, (p.1, s.windowRead p.2) = (off, w) := List.mem_map.mp hmem
  obtain ⟨rfl, rfl⟩ := Prod.mk.inj heq
  exact step_read hr hb (target_controlRegs p hp)

/-- Settles O47: D_i is the register of word number `i`, and storing sets that entry of the data registers. -/
theorem dataRegistersInTheWindow : Obligations.DataRegistersInTheWindow := by
  unfold Obligations.DataRegistersInTheWindow
  intro s i v rest hr
  have ht := target_word (windowMap_data i)
  refine ⟨fun hb => step_read hr hb ht, fun hb => ⟨_, step_store hr hb ht nofun, ?_, fun j hj => ?_, rfl⟩⟩
  · exact Vector.getElem_set_self i.isLt
  · exact Vector.getElem_set_ne i.isLt j.isLt (Fin.val_ne_of_ne hj.symm)

/-! ### Read-only registers and reserved words (R76) -/

/-- The registers that the window shows and no host write reaches (R38, R44, R45, R51, R76). -/
def WindowReg.readOnly : WindowReg → Bool
  | .faultCmd | .id | .param | .reserved _ | .pid _ .integ | .pid _ .prev => true
  | _ => false

theorem State.setPid_pid_self (s : State) (n : Inst) : s.setPid n (s.pid n) = s := by
  cases n <;> rfl

theorem State.windowStore_readOnly (s : State) {r : WindowReg} (h : r.readOnly = true) (v : Word) :
    s.windowStore r v = s := by
  cases r with
  | faultCmd | id | param | reserved n => rfl
  | pid n f =>
    cases f with
    | integ | prev => exact s.setPid_pid_self n
    | _ => cases h
  | _ => cases h

/-- The read-only registers and reserved words at their offsets (R71, R76). -/
def readOnlyRegs : List (Offset × WindowReg) :=
  [(0x048, .faultCmd), (0x04C, .id), (0x0A0, .param), (0x074, .pid .pid0 .integ), (0x078, .pid .pid0 .prev),
    (0x094, .pid .pid1 .integ), (0x098, .pid .pid1 .prev), (0x07C, .reserved .pid0), (0x09C, .reserved .pid1)]

theorem target_readOnlyRegs :
    ∀ p ∈ readOnlyRegs, target p.1 4 = .ok p.2 ∧ p.2 ≠ .cmd ∧ p.2.readOnly = true := by decide

/-- Settles O50: each offset holds a read-only register, which a store leaves as it is, and the reserved words
are two of those that `windowReadsTheRegisterMap` reads. -/
theorem readOnlyWritesAreIgnored : Obligations.ReadOnlyWritesAreIgnored := by
  unfold Obligations.ReadOnlyWritesAreIgnored
  intro s off v rest hr
  refine ⟨fun hmem hb => ?_, fun hmem hb => windowReadsTheRegisterMap s off 0 rest hr ?_ hb⟩
  · obtain ⟨p, hp, rfl⟩ : ∃ p ∈ readOnlyRegs, p.1 = off := List.mem_map.mp hmem
    obtain ⟨ht, hcmd, hro⟩ := target_readOnlyRegs p hp
    rw [step_store hr hb ht hcmd, s.windowStore_readOnly hro]
  · simp only [List.mem_cons, List.not_mem_nil, or_false] at hmem
    obtain rfl | rfl := hmem <;> simp

/-! ### Platform addresses (R70) -/

/-- Settles O57: the address lies in the window, and the base cancels. -/
theorem windowAddressesReachTheirOffset : Obligations.WindowAddressesReachTheirOffset := by
  unfold Obligations.WindowAddressesReachTheirOffset
  intro off
  have hin : Config.fpmlBase ≤ Config.fpmlBase + off.toNat ∧
      Config.fpmlBase + off.toNat < Config.fpmlBase + Config.window :=
    ⟨Nat.le_add_right _ _, Nat.add_lt_add_left off.isLt _⟩
  rw [windowOffset, windowAddress, if_pos hin, Nat.add_sub_cancel_left, BitVec.ofNat_toNat, BitVec.setWidth_eq]

end Sys2Proof.Machine
end

section
/-! PROOFS. The statements of 30_encoding.md. A word decodes to a command exactly when its fields are those of
the command (`decode_eq_command_iff`), which gives the two round trips. The opcode map is then read field by
field: a mask keeps the fields its row fixes, and the row's pattern says what they hold. -/

namespace Sys2Proof

/-! ### Commands and their fields -/

theorem Cmd32.decode_fields (i : Instr) : i.fields.decode = .command i := by
  cases i with
  | pid rd rs1 rs2 rs3 n => simp [Instr.fields, Cmd32.decode, requireZero, Inst.ofCode_code]
  | est rd rs1 rs2 m => simp [Instr.fields, Cmd32.decode, requireZero, Mode.ofCode_code]
  | pipe rd rs1 rs2 rs3 m => simp [Instr.fields, Cmd32.decode, requireZero, Mode.ofCode_code]
  | _ => rfl

/-- The fields that decode to a command are its own. -/
theorem Cmd32.eq_fields_of_decode {c : Cmd32} {i : Instr} (h : c.decode = .command i) : c = i.fields := by
  obtain ⟨opc, rd, rs1, rs2, rs3, mode, inst, rsv⟩ := c
  simp only [Cmd32.decode] at h
  split at h
  case h_12 => cases h
  all_goals
    rename_i hopc
    obtain ⟨rfl, hzero⟩ := requireZero_command h
    simp only [List.forall_mem_cons, Fin.val_eq_zero_iff] at hzero
    simp [Instr.fields, Fin.ext_iff, Mode.code_ofCode, Inst.code_ofCode, hzero, hopc]

theorem decode_eq_command_iff (w : Word) (i : Instr) : decode w = .command i ↔ Cmd32.ofWord w = i.fields :=
  ⟨Cmd32.eq_fields_of_decode, fun h => by rw [decode, h, Cmd32.decode_fields]⟩

/-- Settles O1: the fields of a command survive in its word. -/
theorem encodeThenDecodeIsIdentity : Obligations.EncodeThenDecodeIsIdentity := fun i =>
  (decode_eq_command_iff _ i).mpr (Cmd32.ofWord_toWord i.fields)

/-- Settles O2: the word's fields are those of the command, and a word is made of its fields. -/
theorem decodeThenEncodeIsIdentity : Obligations.DecodeThenEncodeIsIdentity := by
  unfold Obligations.DecodeThenEncodeIsIdentity
  intro w i h
  rw [encode, ← (decode_eq_command_iff w i).mp h, Cmd32.toWord_ofWord]

/-! ### Match and mask, field by field (R102) -/

/-- Fields masked by fields. -/
def Cmd32.and (c m : Cmd32) : Cmd32 where
  opc := c.opc &&& m.opc
  rd := c.rd &&& m.rd
  rs1 := c.rs1 &&& m.rs1
  rs2 := c.rs2 &&& m.rs2
  rs3 := c.rs3 &&& m.rs3
  mode := c.mode &&& m.mode
  inst := c.inst &&& m.inst
  rsv := c.rsv &&& m.rsv

theorem bitField_and (v m : Word) (lo width : Nat) :
    bitField (v &&& m) lo width = bitField v lo width &&& bitField m lo width := by
  simp only [bitField, BitVec.toNat_and, Nat.and_div_two_pow, Nat.and_mod_two_pow]

theorem fin_ofNat_and (k a b : Nat) :
    Fin.ofNat (2 ^ k) (a &&& b) = Fin.ofNat (2 ^ k) a &&& Fin.ofNat (2 ^ k) b := by
  rw [Fin.ext_iff, Fin.and_val]
  exact Nat.and_mod_two_pow

theorem fin_and_allOnes (k : Nat) (x : Fin (2 ^ k)) : x &&& Fin.ofNat (2 ^ k) (2 ^ k - 1) = x := by
  rw [Fin.ext_iff, Fin.and_val, Fin.val_ofNat, Nat.mod_eq_of_lt (Nat.sub_one_lt (Nat.two_pow_pos k).ne'),
    Nat.and_two_pow_sub_one_eq_mod, Nat.mod_eq_of_lt x.isLt]

theorem fin_and_zero {n : Nat} [NeZero n] (x : Fin n) : x &&& 0 = 0 := by
  simp [Fin.ext_iff]

/-- Masking a word masks each of its fields. -/
theorem Cmd32.ofWord_and (w m : Word) : Cmd32.ofWord (w &&& m) = (Cmd32.ofWord w).and (Cmd32.ofWord m) := by
  simp only [Cmd32.ofWord, Cmd32.and, bitField_and, Cmd32.mk.injEq]
  exact ⟨fin_ofNat_and 6 _ _, fin_ofNat_and 4 _ _, fin_ofNat_and 4 _ _, fin_ofNat_and 4 _ _,
    fin_ofNat_and 4 _ _, fin_ofNat_and 2 _ _, fin_ofNat_and 1 _ _, fin_ofNat_and 7 _ _⟩

theorem Cmd32.ofWord_inj {v w : Word} : Cmd32.ofWord v = Cmd32.ofWord w ↔ v = w :=
  ⟨fun h => by rw [← toWord_ofWord v, h, toWord_ofWord], congrArg _⟩

/-- The command of a row of the opcode map with its operands in the fields `c` (R102); the row's other fields
are not looked at. -/
def Op.instr : Op → Cmd32 → Instr
  | .sat16, c => .sat16 c.rd c.rs1
  | .scale, c => .scale c.rd c.rs1 c.rs2 c.rs3
  | .norm, c => .norm c.rd c.rs1 c.rs2
  | .sincos, c => .sincos c.rd c.rs1
  | .polar, c => .polar c.rd c.rs1 c.rs2
  | .vrot, c => .vrot c.rd c.rs1 c.rs2
  | .clarke, c => .clarke c.rd c.rs1 c.rs2
  | .svc, c => .svc c.rd c.rs1 c.rs2
  | .pid, c => .pid c.rd c.rs1 c.rs2 c.rs3 (.ofCode c.inst)
  | .est, c => .est c.rd c.rs1 c.rs2 (.ofCode c.mode)
  | .pipe, c => .pipe c.rd c.rs1 c.rs2 c.rs3 (.ofCode c.mode)

@[simp] theorem Op.instr_op (op : Op) (c : Cmd32) : (op.instr c).op = op := by cases op <;> rfl

theorem Op.instr_fields (i : Instr) : i.op.instr i.fields = i := by
  cases i with
  | pid rd rs1 rs2 rs3 n => exact congrArg (Instr.pid rd rs1 rs2 rs3) n.ofCode_code
  | est rd rs1 rs2 m => exact congrArg (Instr.est rd rs1 rs2) m.ofCode_code
  | pipe rd rs1 rs2 rs3 m => exact congrArg (Instr.pipe rd rs1 rs2 rs3) m.ofCode_code
  | _ => rfl

/-- The fields that a row's mask keeps, all of their bits (R102). -/
def Op.maskFields : Op → Cmd32
  | .sat16 | .sincos => ⟨63, 0, 0, 15, 15, 3, 1, 127⟩
  | .scale => ⟨63, 0, 0, 0, 0, 3, 1, 127⟩
  | .norm | .polar | .vrot | .clarke | .svc => ⟨63, 0, 0, 0, 15, 3, 1, 127⟩
  | .pid => ⟨63, 0, 0, 0, 0, 3, 0, 127⟩
  | .est => ⟨63, 0, 0, 0, 15, 0, 1, 127⟩
  | .pipe => ⟨63, 0, 0, 0, 0, 0, 1, 127⟩

/-- The fields of the word 0. -/
def Cmd32.zero : Cmd32 := ⟨0, 0, 0, 0, 0, 0, 0, 0⟩

/-- The match and mask columns of the opcode map, in fields: a row's pattern is the word of its command with
every operand 0. -/
theorem opcodeMap_fields : ∀ row ∈ opcodeMap, Cmd32.ofWord row.mask = row.op.maskFields ∧
    Cmd32.ofWord row.pattern = (row.op.instr .zero).fields := by decide

theorem opcodeMap_has_row (op : Op) : ∃ row ∈ opcodeMap, row.op = op := by cases op <;> decide

/-- Fields masked as a row asks give the row's pattern exactly when they are those of a command of the row. -/
theorem Op.mask_eq_iff (op : Op) (c : Cmd32) :
    c.and op.maskFields = (op.instr .zero).fields ↔ c = (op.instr c).fields := by
  obtain ⟨opc, rd, rs1, rs2, rs3, mode, inst, rsv⟩ := c
  have hopc : opc &&& 63 = opc := fin_and_allOnes 6 opc
  have hrs2 : rs2 &&& 15 = rs2 := fin_and_allOnes 4 rs2
  have hrs3 : rs3 &&& 15 = rs3 := fin_and_allOnes 4 rs3
  have hmode : mode &&& 3 = mode := fin_and_allOnes 2 mode
  have hinst : inst &&& 1 = inst := fin_and_allOnes 1 inst
  have hrsv : rsv &&& 127 = rsv := fin_and_allOnes 7 rsv
  cases op <;> simp [Op.instr, Instr.fields, Cmd32.and, Op.maskFields, Cmd32.zero,
    Mode.code_ofCode, Inst.code_ofCode, fin_and_zero, hopc, hrs2, hrs3, hmode, hinst, hrsv]

theorem OpRow.selected_iff {row : OpRow} (hrow : row ∈ opcodeMap) (w : Word) :
    w &&& row.mask = row.pattern ↔ ∃ i, decode w = .command i ∧ i.op = row.op := by
  obtain ⟨hmask, hpattern⟩ := opcodeMap_fields row hrow
  rw [← Cmd32.ofWord_inj, Cmd32.ofWord_and, hmask, hpattern, Op.mask_eq_iff]
  constructor
  · exact fun h => ⟨_, (decode_eq_command_iff w _).mpr h, Op.instr_op _ _⟩
  · rintro ⟨i, hd, hop⟩
    rw [(decode_eq_command_iff w i).mp hd, ← hop, Op.instr_fields]

/-- Settles O3: every command has a row, so a word that selects none is no command. -/
theorem decodeFollowsOpcodeMap : Obligations.DecodeFollowsOpcodeMap := by
  unfold Obligations.DecodeFollowsOpcodeMap
  intro w
  refine ⟨fun row hrow => OpRow.selected_iff hrow w, fun hnone => ?_⟩
  cases hd : decode w with
  | illegal why => exact ⟨why, rfl⟩
  | command i =>
    obtain ⟨row, hrow, hop⟩ := opcodeMap_has_row i.op
    exact absurd ((OpRow.selected_iff hrow w).mpr ⟨i, hd, hop.symm⟩) (hnone row hrow)

end Sys2Proof
end

section
/-! PROOFS. The statements of 40_fixed_point_math.md. The commands first: each writes one register, a pair or a
triple with values that fit, so its results read back and its frame is that of the write. The properties of a
kernel follow the commands that use it; the sine lookup has a section of its own. -/

namespace Sys2Proof.Machine

/-! ### The word of a command with register operands only -/

theorem encode_toNat_of_registers {i : Instr} {opc : Fin 64} {rd rs1 rs2 rs3 : Reg}
    (h : i.fields = ⟨opc, rd, rs1, rs2, rs3, 0, 0, 0⟩) :
    (encode i).toNat =
      opc.val * 2 ^ 26 + rd.val * 2 ^ 22 + rs1.val * 2 ^ 18 + rs2.val * 2 ^ 14 + rs3.val * 2 ^ 10 := by
  rw [encode, Cmd32.toWord_toNat, h]
  simp

/-! ### What a command that completes leaves -/

section writes
variable {s : State} {r : Reg} {v0 v1 v2 : Int} {o : Host.Outcome State Fault Refusal}

theorem completes_of_setX (ho : o = .next (s.setX r v0).countCommand)
    (h0 : -2147483648 ≤ v0 ∧ v0 ≤ 2147483647) :
    ∃ t, o = .next t ∧ t.x r = v0 ∧ Completed [r] [] s t := by
  refine ⟨_, ho, ?_, completed_setX s r v0⟩
  rw [State.countCommand_x, s.setX_x_same r h0.1 h0.2]

theorem completes_of_setPair (ho : o = .next (s.setPair r v0 v1).countCommand)
    (h0 : -2147483648 ≤ v0 ∧ v0 ≤ 2147483647) (h1 : -2147483648 ≤ v1 ∧ v1 ≤ 2147483647) :
    ∃ t, o = .next t ∧ t.x r = v0 ∧ t.x (r + 1) = v1 ∧ Completed [r, r + 1] [] s t := by
  obtain ⟨e0, e1⟩ := s.setPair_x r h0 h1
  refine ⟨_, ho, ?_, ?_, completed_setPair s r v0 v1⟩
  · rw [State.countCommand_x, e0]
  · rw [State.countCommand_x, e1]

theorem completes_of_setTriple (ho : o = .next (s.setTriple r v0 v1 v2).countCommand)
    (h0 : -2147483648 ≤ v0 ∧ v0 ≤ 2147483647) (h1 : -2147483648 ≤ v1 ∧ v1 ≤ 2147483647)
    (h2 : -2147483648 ≤ v2 ∧ v2 ≤ 2147483647) :
    ∃ t, o = .next t ∧ t.x r = v0 ∧ t.x (r + 1) = v1 ∧ t.x (r + 2) = v2 ∧
      Completed [r, r + 1, r + 2] [] s t := by
  obtain ⟨e0, e1, e2⟩ := s.setTriple_x r h0 h1 h2
  refine ⟨_, ho, ?_, ?_, ?_, completed_setTriple s r v0 v1 v2⟩
  · rw [State.countCommand_x, e0]
  · rw [State.countCommand_x, e1]
  · rw [State.countCommand_x, e2]

end writes

theorem sat16_fits (v : Int) : -2147483648 ≤ sat16 v ∧ sat16 v ≤ 2147483647 :=
  fits_of_abs_le (by decide) (abs_sat16_le v)

theorem saturated_fits (v : Int) : -2147483648 ≤ saturated v ∧ saturated v ≤ 2147483647 := by
  rw [← sat32_saturated]
  exact fits_of_abs_le le_rfl (abs_sat32_le v)

theorem takeFault_div0 (s : State) : s.takeFault .div0 = faultRecord 3 s := rfl

/-- The index a command looks up is that of the pattern in its angle register (R142). -/
theorem State.angle_eq_tableIndex (s : State) (r : Reg) : s.angle r = tableIndex s.d[r] := rfl

/-! ### Saturating scale and normalise -/

/-- Settles O9: SAT16 cannot fault, and its result fits. -/
theorem sat16SaturatesToSixteenBits : Obligations.Sat16SaturatesToSixteenBits := by
  unfold Obligations.Sat16SaturatesToSixteenBits
  intro rd rs1 s
  refine ⟨(encode_toNat_of_registers rfl).trans (by simp), ?_⟩
  rw [← sat16_eq]
  exact completes_of_setX rfl (sat16_fits _)

theorem exec_scale_of_ne_zero (rd rs1 rs2 rs3 : Reg) {s : State} (h : s.x rs3 ≠ 0) :
    exec (.scale rd rs1 rs2 rs3) s =
      .next (s.setX rd (sat16 ((s.x rs1 * s.x rs2).tdiv (s.x rs3)))).countCommand := by
  rw [exec, execScale, if_neg h, finish_ok, tdiv_eq]

theorem exec_scale_of_eq_zero (rd rs1 rs2 rs3 : Reg) {s : State} (h : s.x rs3 = 0) :
    exec (.scale rd rs1 rs2 rs3) s = .next (faultRecord 3 s) := by
  rw [exec, execScale, if_pos h, finish_error, takeFault_div0]

/-- Settles O10, by whether the divisor is 0. -/
theorem scaleMultipliesDividesAndSaturates : Obligations.ScaleMultipliesDividesAndSaturates := by
  unfold Obligations.ScaleMultipliesDividesAndSaturates
  intro rd rs1 rs2 rs3 s
  refine ⟨(encode_toNat_of_registers rfl).trans (by simp), fun h => ?_, exec_scale_of_eq_zero rd rs1 rs2 rs3⟩
  rw [← sat16_eq]
  exact completes_of_setX (exec_scale_of_ne_zero rd rs1 rs2 rs3 h) (sat16_fits _)

theorem exec_norm_of_ne_zero (rd rs1 rs2 : Reg) {s : State} (h : s.x rs2 ≠ 0) :
    exec (.norm rd rs1 rs2) s = .next (s.setX rd (normq (s.x rs1) (s.x rs2))).countCommand := by
  rw [exec, execNorm, if_neg h, finish_ok]

theorem exec_norm_of_eq_zero (rd rs1 rs2 : Reg) {s : State} (h : s.x rs2 = 0) :
    exec (.norm rd rs1 rs2) s = .next (faultRecord 3 s) := by
  rw [exec, execNorm, if_pos h, finish_error, takeFault_div0]

/-- Settles O11, by whether the divisor is 0. -/
theorem normDividesShiftedVoltage : Obligations.NormDividesShiftedVoltage := by
  unfold Obligations.NormDividesShiftedVoltage
  intro rd rs1 rs2 s
  refine ⟨(encode_toNat_of_registers rfl).trans (by simp), fun h => ?_, exec_norm_of_eq_zero rd rs1 rs2⟩
  rw [← normq_eq]
  exact completes_of_setX (exec_norm_of_ne_zero rd rs1 rs2 h) (sat16_fits _)

theorem normq_neg (v d : Int) : normq (-v) d = -normq v d := by
  rw [normq_eq, normq_eq, Int.neg_mul, Int.neg_tdiv]
  omega

theorem normq_mono {v v' d : Int} (hd : 0 < d) (h : v ≤ v') : normq v d ≤ normq v' d := by
  have hquot : (v * 2 ^ 15).tdiv d ≤ (v' * 2 ^ 15).tdiv d := Int.tdiv_le_tdiv hd (by omega)
  rw [normq_eq, normq_eq]
  omega

/-- Settles O22: division toward zero is odd and monotone, and saturation to a symmetric range keeps both. -/
theorem normalisationIsOddAndMonotone : Obligations.NormalisationIsOddAndMonotone := by
  unfold Obligations.NormalisationIsOddAndMonotone
  exact fun v d _ => ⟨normq_eq v d, normq_neg v d, fun hd _ => normq_mono hd⟩

/-! ### Sine and cosine lookup and rotation -/

/-- Settles O12: table values fit 16 bits. -/
theorem sincosWritesSineAndCosine : Obligations.SincosWritesSineAndCosine := by
  unfold Obligations.SincosWritesSineAndCosine
  intro rd rs1 s
  have hsin := lsin_bounds (tableIndex s.d[rs1])
  have hcos := lcos_bounds (tableIndex s.d[rs1])
  obtain ⟨t, he, e0, e1, hframe⟩ := completes_of_setPair (o := exec (.sincos rd rs1) s) rfl
    (fits_of_abs_le (by decide) (abs_le.mpr hsin)) (fits_of_abs_le (by decide) (abs_le.mpr hcos))
  refine ⟨(encode_toNat_of_registers rfl).trans (by simp), t, he, e0, e1, ?_, ?_, hframe⟩
  · exact e0 ▸ hsin
  · exact e1 ▸ hcos

/-- A register times a Q15 value, rescaled, is within the symmetric 32-bit range (R150). -/
theorem rescaled_bounds {m q : Int} (hm : -2147483648 ≤ m ∧ m ≤ 2147483647) (hq : -32767 ≤ q ∧ q ≤ 32767) :
    -2147483647 ≤ m * q / 2 ^ 15 ∧ m * q / 2 ^ 15 ≤ 2147483647 := by
  have hprod : |m * q| ≤ 2147483648 * 32767 := by
    rw [abs_mul]
    exact mul_le_mul (abs_le.mpr ⟨hm.1, by omega⟩) (abs_le.mpr hq) (abs_nonneg q) (by decide)
  obtain ⟨hlo, hhi⟩ := abs_le.mp hprod
  omega

theorem exec_polar (rd rs1 rs2 : Reg) (s : State) :
    exec (.polar rd rs1 rs2) s = .next (s.setPair rd (s.x rs2 * lsin (tableIndex s.d[rs1]) / 2 ^ 15)
      (s.x rs2 * lcos (tableIndex s.d[rs1]) / 2 ^ 15)).countCommand := by
  rw [exec, execPolar, finish_ok, polarPair, State.angle_eq_tableIndex, asr_eq, asr_eq,
    sat32_of_bounds (rescaled_bounds (s.x_bounds rs2) (lsin_bounds _)),
    sat32_of_bounds (rescaled_bounds (s.x_bounds rs2) (lcos_bounds _))]

/-- Settles O13: the rescaled products are in range as they are. -/
theorem polarWritesCartesianPair : Obligations.PolarWritesCartesianPair := by
  unfold Obligations.PolarWritesCartesianPair
  intro rd rs1 rs2 s
  obtain ⟨hsLo, hsHi⟩ := rescaled_bounds (s.x_bounds rs2) (lsin_bounds (tableIndex s.d[rs1]))
  obtain ⟨hcLo, hcHi⟩ := rescaled_bounds (s.x_bounds rs2) (lcos_bounds (tableIndex s.d[rs1]))
  exact ⟨(encode_toNat_of_registers rfl).trans (by simp),
    completes_of_setPair (exec_polar rd rs1 rs2 s) ⟨by omega, by omega⟩ ⟨by omega, by omega⟩⟩

/-- VROT in the vocabulary of the claims (R151). -/
theorem exec_vrot (rd rs1 rs2 : Reg) (s : State) :
    exec (.vrot rd rs1 rs2) s = .next (s.setPair rd
      (saturated ((s.x rs1 * lcos (tableIndex s.d[rs2]) +
        s.x (rs1 + 1) * lsin (tableIndex s.d[rs2])) / 2 ^ 15))
      (saturated ((s.x (rs1 + 1) * lcos (tableIndex s.d[rs2]) -
        s.x rs1 * lsin (tableIndex s.d[rs2])) / 2 ^ 15))).countCommand := by
  rw [exec, execVrot, finish_ok, rotatePair, State.angle_eq_tableIndex, asr_eq, asr_eq, sat32_saturated,
    sat32_saturated]

/-- Settles O14: VROT cannot fault, and saturated results fit. -/
theorem vrotRotatesThePair : Obligations.VrotRotatesThePair := by
  unfold Obligations.VrotRotatesThePair
  intro rd rs1 rs2 s
  exact ⟨(encode_toNat_of_registers rfl).trans (by simp),
    completes_of_setPair (exec_vrot rd rs1 rs2 s) (saturated_fits _) (saturated_fits _)⟩

/-- Rotating the pair (0, m) gives the cartesian pair of m (R152). -/
theorem rotatePair_zero (i : Nat) (m : Int) : rotatePair i 0 m = polarPair i m := by
  simp [rotatePair, polarPair]

theorem State.setPair_d_same (s : State) (r : Reg) (v0 v1 : Int) :
    (s.setPair r v0 v1).d[r] = bits32 v0 ∧ (s.setPair r v0 v1).d[r + 1] = bits32 v1 := by
  refine ⟨?_, State.setX_d_same _ _ _⟩
  rw [State.setPair, State.setX_d_other _ _ (reg_ne_add_one r), State.setX_d_same]

/-- Settles O25: both commands write the same pair. -/
theorem polarIsRotationOfTheMagnitude : Obligations.PolarIsRotationOfTheMagnitude := by
  unfold Obligations.PolarIsRotationOfTheMagnitude
  intro rd rs1 rs2 rp ra s u hangle hzero hmag
  have hpair : rotatePair (u.angle ra) (u.x rp) (u.x (rp + 1)) = polarPair (s.angle rs1) (s.x rs2) := by
    rw [State.angle, State.angle, hangle, hzero, hmag, rotatePair_zero]
  have hvrot : exec (.vrot rd rp ra) u = .next (u.setPair rd (polarPair (s.angle rs1) (s.x rs2)).1
      (polarPair (s.angle rs1) (s.x rs2)).2).countCommand := by
    rw [exec, execVrot, finish_ok, hpair]
  obtain ⟨hs0, hs1⟩ := s.setPair_d_same rd (polarPair (s.angle rs1) (s.x rs2)).1
    (polarPair (s.angle rs1) (s.x rs2)).2
  obtain ⟨hu0, hu1⟩ := u.setPair_d_same rd (polarPair (s.angle rs1) (s.x rs2)).1
    (polarPair (s.angle rs1) (s.x rs2)).2
  exact ⟨_, _, rfl, hvrot, hs0.trans hu0.symm, hs1.trans hu1.symm⟩

/-! ### Three-phase kernels -/

/-- CLARKE in the vocabulary of the claims (R160). -/
theorem exec_clarke (rd rs1 rs2 : Reg) (s : State) :
    exec (.clarke rd rs1 rs2) s = .next (s.setTriple rd (saturated (s.x rs1))
      (saturated (28378 * s.x rs2 / 2 ^ 15 - s.x rs1 / 2))
      (saturated (-(28378 * s.x rs2 / 2 ^ 15) - s.x rs1 / 2))).countCommand := by
  rw [exec, execClarke, finish_ok, sat32_saturated, sat32_saturated, sat32_saturated]
  rfl

theorem clarke_completes (rd rs1 rs2 : Reg) (s : State) : ∃ t, exec (.clarke rd rs1 rs2) s = .next t ∧
    t.x rd = saturated (s.x rs1) ∧
    t.x (rd + 1) = saturated (28378 * s.x rs2 / 2 ^ 15 - s.x rs1 / 2) ∧
    t.x (rd + 2) = saturated (-(28378 * s.x rs2 / 2 ^ 15) - s.x rs1 / 2) ∧
    Completed [rd, rd + 1, rd + 2] [] s t :=
  completes_of_setTriple (exec_clarke rd rs1 rs2 s) (saturated_fits _) (saturated_fits _) (saturated_fits _)

/-- Settles O15: CLARKE cannot fault, and saturated results fit. -/
theorem clarkeWritesThreePhases : Obligations.ClarkeWritesThreePhases := by
  unfold Obligations.ClarkeWritesThreePhases
  exact fun rd rs1 rs2 s => ⟨(encode_toNat_of_registers rfl).trans (by simp), clarke_completes rd rs1 rs2 s⟩

/-- Settles O26: the beta terms cancel, and the two halves of alpha fall short of it by its parity. -/
theorem clarkePhasesSumToParity : Obligations.ClarkePhasesSumToParity := by
  unfold Obligations.ClarkePhasesSumToParity
  intro rd rs1 rs2 s ha hb hc
  obtain ⟨t, he, e0, e1, e2, -⟩ := clarke_completes rd rs1 rs2 s
  rw [ha] at e0
  rw [hb] at e1
  rw [hc] at e2
  have hsum : t.x rd + t.x (rd + 1) + t.x (rd + 2) = s.x rs1 - 2 * (s.x rs1 / 2) := by
    rw [e0, e1, e2]
    ring
  exact ⟨t, he, hsum, by omega, by omega⟩

/-- SVC's offset in the vocabulary of the claims (R170). -/
theorem centerOffset_eq (p0 p1 p2 supply : Int) :
    centerOffset p0 p1 p2 supply = ((supply - max p0 (max p1 p2)) - min p0 (min p1 p2)).tdiv 2 := rfl

/-- SVC in the vocabulary of the claims (R170). -/
theorem svc_completes (rd rs1 rs2 : Reg) (s : State) : ∃ t, exec (.svc rd rs1 rs2) s = .next t ∧
    t.x rd = saturated (s.x rs1 + centerOffset (s.x rs1) (s.x (rs1 + 1)) (s.x (rs1 + 2)) (s.x rs2)) ∧
    t.x (rd + 1) =
      saturated (s.x (rs1 + 1) + centerOffset (s.x rs1) (s.x (rs1 + 1)) (s.x (rs1 + 2)) (s.x rs2)) ∧
    t.x (rd + 2) =
      saturated (s.x (rs1 + 2) + centerOffset (s.x rs1) (s.x (rs1 + 1)) (s.x (rs1 + 2)) (s.x rs2)) ∧
    Completed [rd, rd + 1, rd + 2] [] s t := by
  refine completes_of_setTriple ?_ (saturated_fits _) (saturated_fits _) (saturated_fits _)
  rw [exec, execSvc, finish_ok, sat32_saturated, sat32_saturated, sat32_saturated]

/-- Settles O16: SVC cannot fault, and saturated results fit. -/
theorem svcAddsCenteringOffset : Obligations.SvcAddsCenteringOffset := by
  unfold Obligations.SvcAddsCenteringOffset
  exact fun rd rs1 rs2 s => ⟨(encode_toNat_of_registers rfl).trans (by simp), svc_completes rd rs1 rs2 s⟩

/-- The offset moves the least phase to at least 0 and the greatest to at most the supply (R171). There is no
rounding slack, since both bounds on the value halved are even. -/
theorem centered_bounds {p0 p1 p2 supply : Int}
    (h : max p0 (max p1 p2) - min p0 (min p1 p2) ≤ supply) :
    0 ≤ min p0 (min p1 p2) + centerOffset p0 p1 p2 supply ∧
    max p0 (max p1 p2) + centerOffset p0 p1 p2 supply ≤ supply := by
  rw [centerOffset_eq]
  generalize max p0 (max p1 p2) = mx at *
  generalize min p0 (min p1 p2) = mn at *
  have hlo : (-mn * 2).tdiv 2 ≤ (supply - mx - mn).tdiv 2 := Int.tdiv_le_tdiv (by decide) (by omega)
  have hhi : (supply - mx - mn).tdiv 2 ≤ ((supply - mx) * 2).tdiv 2 :=
    Int.tdiv_le_tdiv (by decide) (by omega)
  rw [Int.mul_tdiv_cancel _ (by decide)] at hlo hhi
  omega

/-- Settles O27: unsaturated outputs are the phases moved by the offset. -/
theorem svcCentersWithinSupply : Obligations.SvcCentersWithinSupply := by
  unfold Obligations.SvcCentersWithinSupply
  intro rd rs1 rs2 s p0 p1 p2 mx mn off hsupply h0 h1 h2
  obtain ⟨t, he, e0, e1, e2, -⟩ := svc_completes rd rs1 rs2 s
  obtain ⟨hlo, hhi⟩ := centered_bounds hsupply
  have e0 : t.x rd = p0 + off := e0.trans h0
  have e1 : t.x (rd + 1) = p1 + off := e1.trans h1
  have e2 : t.x (rd + 2) = p2 + off := e2.trans h2
  refine ⟨t, he, ?_, ?_⟩
  · rw [e0, e1, e2, min_add_add_right, min_add_add_right]
    exact hlo
  · rw [e0, e1, e2, max_add_add_right, max_add_add_right]
    exact hhi

end Sys2Proof.Machine
end

section
/-! PROOFS. The sine lookup of 40_fixed_point_math.md. Its exact symmetries (R141, R143) carry what holds of the
table, on a quarter wave, to every index; so the table's distance from the integer grid of real sines bounds
that of the lookup from the sine and the cosine (R140, R143). -/

namespace Sys2Proof.Machine

/-! ### The exact symmetries of the lookup -/

/-- Entry by entry, in rows of sixteen as the table is written. -/
theorem qtab_rows_le_succ : ∀ q < 16, ∀ r < 16, qtab (16 * q + r) ≤ qtab (16 * q + r + 1) := by decide

theorem qtab_le_succ {k : Nat} (h : k < 256) : qtab k ≤ qtab (k + 1) := by
  have hrow := qtab_rows_le_succ (k / 16) (by omega) (k % 16) (by omega)
  rwa [Nat.div_add_mod] at hrow

theorem qtab_mono {j k : Nat} (hjk : j ≤ k) (hk : k ≤ 256) : qtab j ≤ qtab k := by
  induction k, hjk using Nat.le_induction with
  | base => exact le_rfl
  | succ k _ ih => exact (ih (by omega)).trans (qtab_le_succ (by omega))

section quadrants
variable {i : Nat}

theorem lsin_of_quadrant_zero (h : i / 256 % 4 = 0) : lsin i = qtab (i % 256) := by simp only [lsin, h]
theorem lsin_of_quadrant_one (h : i / 256 % 4 = 1) : lsin i = qtab (256 - i % 256) := by simp only [lsin, h]
theorem lsin_of_quadrant_two (h : i / 256 % 4 = 2) : lsin i = -qtab (i % 256) := by simp only [lsin, h]
theorem lsin_of_quadrant_three (h : i / 256 % 4 = 3) : lsin i = -qtab (256 - i % 256) := by
  simp only [lsin, h]

end quadrants

theorem lsin_mod_turn (i : Nat) : lsin (i % 1024) = lsin i := by
  have hoff : i % 1024 % 256 = i % 256 := by omega
  have hquad : i % 1024 / 256 % 4 = i / 256 % 4 := by omega
  rw [lsin, lsin, hoff, hquad]

theorem lcos_eq_lsin (i : Nat) : lcos i = lsin (i + 256) := lsin_mod_turn (i + 256)

theorem lsin_add_half_turn (i : Nat) : lsin (i + 512) = -lsin i := by
  have hoff : (i + 512) % 256 = i % 256 := by omega
  obtain hq | hq | hq | hq : i / 256 % 4 = 0 ∨ i / 256 % 4 = 1 ∨ i / 256 % 4 = 2 ∨ i / 256 % 4 = 3 := by
    omega
  · rw [lsin_of_quadrant_zero hq, lsin_of_quadrant_two (by omega), hoff]
  · rw [lsin_of_quadrant_one hq, lsin_of_quadrant_three (by omega), hoff]
  · rw [lsin_of_quadrant_two hq, lsin_of_quadrant_zero (by omega), hoff, Int.neg_neg]
  · rw [lsin_of_quadrant_three hq, lsin_of_quadrant_one (by omega), hoff, Int.neg_neg]

/-- The first quadrant with both its ends reads the table upward. -/
theorem lsin_of_le {k : Nat} (h : k ≤ 256) : lsin k = qtab k := by
  obtain rfl | hk := h.eq_or_lt
  · rfl
  · rw [lsin_of_quadrant_zero (by omega), Nat.mod_eq_of_lt hk]

/-- The second quadrant with both its ends reads the table downward. -/
theorem lsin_quarter_add {k : Nat} (h : k ≤ 256) : lsin (256 + k) = qtab (256 - k) := by
  obtain rfl | hk := h.eq_or_lt
  · rfl
  · rw [lsin_of_quadrant_one (by omega), Nat.add_mod_left, Nat.mod_eq_of_lt hk]

/-- The half wave is symmetric about its middle. -/
theorem lsin_reflect {i : Nat} (h : i ≤ 512) : lsin (512 - i) = lsin i := by
  obtain hi | hi := Nat.le_total i 256
  · rw [lsin_of_le hi, show 512 - i = 256 + (256 - i) by omega, lsin_quarter_add (by omega),
      Nat.sub_sub_self hi]
  · obtain ⟨k, rfl⟩ := Nat.exists_eq_add_of_le hi
    rw [lsin_quarter_add (by omega), lsin_of_le (by omega), show 512 - (256 + k) = 256 - k by omega]

/-- The reflection of R143 at every index, modulo a turn. -/
theorem lsin_reflect_mod (i : Nat) : lsin ((512 + 1024 - i % 1024) % 1024) = lsin i := by
  rw [← lsin_mod_turn i]
  have hlt : i % 1024 < 1024 := Nat.mod_lt _ (by decide)
  generalize i % 1024 = j at *
  obtain hj | hj := le_or_gt j 512
  · rw [show (512 + 1024 - j) % 1024 = 512 - j by omega, lsin_reflect hj]
  · obtain ⟨k, rfl⟩ := Nat.exists_eq_add_of_le' hj.le
    rw [show (512 + 1024 - (k + 512)) % 1024 = 512 - k + 512 by omega, lsin_add_half_turn,
      lsin_add_half_turn, lsin_reflect (by omega)]

/-- Settles O23: the cosine's identity is the sine's reflection a quarter turn on. -/
theorem sineLookupIdentities : Obligations.SineLookupIdentities := by
  unfold Obligations.SineLookupIdentities
  refine ⟨fun j k => qtab_mono, ⟨rfl, rfl, rfl⟩, fun k _ => ?_, fun i => ⟨lsin_of_quadrant_zero,
    lsin_of_quadrant_one, lsin_of_quadrant_two, lsin_of_quadrant_three, rfl, ?_, lsin_reflect_mod i, ?_⟩⟩
  · have := qtab_bounds k
    omega
  · rw [lsin_mod_turn, lsin_add_half_turn]
  · rw [lcos_eq_lsin, ← lsin_reflect_mod (i + 256)]
    congr 1
    omega

/-! ### The distance from the real sine -/

/-- Every entry, in rows of sixteen with the next row's first, lies within 499/1000 of the integer grid's sine. -/
theorem qtab_rows_near_grid : ∀ q < 16, ∀ r < 17,
    10 ^ 15 * qtab (16 * q + r) - 32767 * (Laws.gridPoint (16 * q + r)).2 < 499 * 10 ^ 12 ∧
    -(499 * 10 ^ 12) < 10 ^ 15 * qtab (16 * q + r) - 32767 * (Laws.gridPoint (16 * q + r)).2 := by decide

theorem qtab_near_grid {k : Nat} (h : k ≤ 256) :
    10 ^ 15 * qtab k - 32767 * (Laws.gridPoint k).2 < 499 * 10 ^ 12 ∧
    -(499 * 10 ^ 12) < 10 ^ 15 * qtab k - 32767 * (Laws.gridPoint k).2 := by
  obtain rfl | hk := h.eq_or_lt
  · exact qtab_rows_near_grid 15 (by decide) 16 (by decide)
  · have hrow := qtab_rows_near_grid (k / 16) (by omega) (k % 16) (by omega)
    rwa [Nat.div_add_mod] at hrow

theorem qtab_rounds_sine {k : Nat} (h : k ≤ 256) :
    |(qtab k : ℝ) - 32767 * Real.sin (Real.pi * k / 512)| < 1 / 2 := by
  obtain ⟨htabHi, htabLo⟩ := qtab_near_grid h
  obtain ⟨hsinLo, hsinHi⟩ := abs_le.mp (Laws.sin_grid_close h)
  have htabHi : 10 ^ 15 * (qtab k : ℝ) - 32767 * (Laws.gridPoint k).2 < 499 * 10 ^ 12 := by
    exact_mod_cast htabHi
  have htabLo : -(499 * 10 ^ 12) < 10 ^ 15 * (qtab k : ℝ) - 32767 * (Laws.gridPoint k).2 := by
    exact_mod_cast htabLo
  rw [abs_lt]
  constructor <;> linarith

/-- The real angle of an index, half a turn on. -/
theorem real_angle_add_half_turn (i : Nat) :
    2 * Real.pi * ((i + 512 : Nat) : ℝ) / 1024 = 2 * Real.pi * i / 1024 + Real.pi := by
  push_cast
  ring

/-- In the half wave the lookup rounds the sine, since both are symmetric about its middle. -/
theorem lsin_rounds_sine_half_wave {i : Nat} (h : i ≤ 512) :
    |(lsin i : ℝ) - 32767 * Real.sin (2 * Real.pi * i / 1024)| < 1 / 2 := by
  have hangle (k : Nat) : 2 * Real.pi * (k : ℝ) / 1024 = Real.pi * k / 512 := by ring
  rw [hangle]
  obtain hi | hi := Nat.le_total i 256
  · rw [lsin_of_le hi]
    exact qtab_rounds_sine hi
  · have hmirror : Real.pi * (i : ℝ) / 512 = Real.pi - Real.pi * ((512 - i : Nat) : ℝ) / 512 := by
      rw [Nat.cast_sub h]
      push_cast
      ring
    rw [← lsin_reflect h, lsin_of_le (by omega), hmirror, Real.sin_pi_sub]
    exact qtab_rounds_sine (by omega)

/-- The lookup rounds the sine at every index: half a turn on, both change sign. -/
theorem lsin_rounds_sine (i : Nat) :
    |(lsin i : ℝ) - 32767 * Real.sin (2 * Real.pi * i / 1024)| < 1 / 2 := by
  induction i using Nat.strong_induction_on with
  | _ i ih =>
    obtain hi | hi := Nat.le_total i 512
    · exact lsin_rounds_sine_half_wave hi
    · obtain ⟨k, rfl⟩ := Nat.exists_eq_add_of_le' hi
      rw [lsin_add_half_turn, real_angle_add_half_turn, Real.sin_add_pi, Int.cast_neg, mul_neg, neg_sub_neg,
        abs_sub_comm]
      exact ih k (by omega)

theorem lcos_rounds_cosine (i : Nat) :
    |(lcos i : ℝ) - 32767 * Real.cos (2 * Real.pi * i / 1024)| < 1 / 2 := by
  have hquarter : 2 * Real.pi * ((i + 256 : Nat) : ℝ) / 1024 = 2 * Real.pi * i / 1024 + Real.pi / 2 := by
    push_cast
    ring
  rw [lcos_eq_lsin, ← Real.sin_add_pi_div_two, ← hquarter]
  exact lsin_rounds_sine (i + 256)

/-- What the angle loses to truncation is the six bits below its index (R142). -/
theorem angle_sub_index_angle (w : Word) :
    (uint16 w : ℝ) * Real.pi / 32768 - 2 * Real.pi * (angleIndex w : ℝ) / 1024 =
      Real.pi / 32768 * (uint16 w % 64 : Nat) := by
  have hsplit : (uint16 w : ℝ) = 64 * (angleIndex w : ℝ) + (uint16 w % 64 : Nat) := by
    exact_mod_cast (Nat.div_add_mod (uint16 w) 64).symm
  linear_combination Real.pi / 32768 * hsplit

/-- Settles O58: the table by the integer grid, the lookup by its symmetries, the angle by the bits cut off. -/
theorem sineTableRoundsTheSine : Obligations.SineTableRoundsTheSine := by
  unfold Obligations.SineTableRoundsTheSine
  refine ⟨fun k => qtab_rounds_sine, fun i _ => ⟨lsin_rounds_sine i, lcos_rounds_cosine i⟩, fun w => ?_⟩
  have hcut : ((uint16 w % 64 : Nat) : ℝ) < 64 := by exact_mod_cast Nat.mod_lt _ (by decide)
  rw [angle_sub_index_angle]
  constructor
  · positivity
  · nlinarith [Real.pi_pos]

end Sys2Proof.Machine
end

section
/-! PROOFS. The statements of 41_pid_controller.md. A counted command passed all its checks, so its results and
its instances' state are those of the ticks it made; this is said once for each of the three commands that tick
(`pid_of_counted`, `est_closed_of_counted`, `pipe_closed_of_counted`), and the statements are read off. -/

namespace Sys2Proof.Machine

/-! ### The PID command -/

theorem encode_pid_toNat (rd rs1 rs2 rs3 : Reg) (n : Inst) :
    (encode (.pid rd rs1 rs2 rs3 n)).toNat =
      0x24000000 + rd.val * 2 ^ 22 + rs1.val * 2 ^ 18 + rs2.val * 2 ^ 14 + rs3.val * 2 ^ 10 +
        (if n = .pid1 then 2 ^ 7 else 0) := by
  rw [encode_toNat_of_fields (i := .pid rd rs1 rs2 rs3 n) (opc := 9) (rd := rd.val) (rs1 := rs1.val)
    (rs2 := rs2.val) (rs3 := rs3.val) (mode := 0) rfl rfl rfl rfl rfl rfl (Inst.code_val n) rfl]
  split <;> omega

theorem takeFault_precond (s : State) : s.takeFault .precond = faultRecord 2 s := rfl

theorem takeFault_range (s : State) : s.takeFault .range = faultRecord 4 s := rfl

/-- An output within a limit that a register holds fits a register. -/
theorem controlOutput_fits (p : Pid) (e ff : Int) {limit : Int} (h : 0 ≤ limit) (hmax : limit ≤ 2147483647) :
    -2147483648 ≤ controlOutput p e ff limit ∧ controlOutput p e ff limit ≤ 2147483647 :=
  fits_of_abs_le le_rfl (abs_controlOutput_le p e ff h hmax)

/-- PID whose checks pass, in the vocabulary of the claims (R203). -/
theorem pid_completes (rd rs1 rs2 rs3 : Reg) (n : Inst) (s : State) (hlimit : 0 ≤ s.x (rs3 + 1))
    (hclamp : 0 ≤ (s.pid n).iclamp.toInt) (herr : ErrorFits (s.x rs2 - s.x rs1)) :
    ∃ t, exec (.pid rd rs1 rs2 rs3 n) s = .next t ∧
      t.x rd = controlOutput (s.pid n) (s.x rs2 - s.x rs1) (s.x rs3) (s.x (rs3 + 1)) ∧
      t.x (rd + 1) = s.x rs2 - s.x rs1 ∧ Ticked n (s.x rs2 - s.x rs1) s t ∧
      Completed [rd, rd + 1] [n] s t := by
  obtain ⟨hout, herror⟩ := s.setPair_x rd
    (controlOutput_fits (s.pid n) (s.x rs2 - s.x rs1) (s.x rs3) hlimit (s.x_bounds _).2) herr
  refine ⟨_, execPid_complete rd rs1 rs2 rs3 n s hlimit hclamp herr, ?_, ?_, ?_,
    completed_pidCommit (completed_setPair s rd _ _) n _⟩
  · simpa using hout
  · simpa using herror
  · simpa [Ticked] using ticked_pidCommit s n (s.x rs1) (s.x rs2) (s.x rs3) (s.x (rs3 + 1)) hclamp herr

/-- Settles O17: PRECOND, then RANGE, then the tick. -/
theorem pidTicksItsInstance : Obligations.PidTicksItsInstance := by
  unfold Obligations.PidTicksItsInstance
  intro rd rs1 rs2 rs3 n s
  refine ⟨encode_pid_toNat rd rs1 rs2 rs3 n, pid_completes rd rs1 rs2 rs3 n s, ?_, ?_⟩
  · rw [← takeFault_precond]
    exact execPid_precond rd rs1 rs2 rs3 n s
  · rw [← takeFault_range]
    exact execPid_range rd rs1 rs2 rs3 n s

/-! ### What a counted command did -/

theorem not_counted_of_faults {o : Host.Outcome State Fault Refusal} {s t : State} {c : Cause}
    (hfault : o = .next (s.takeFault c)) (hnext : o = .next t) : ¬Counted s t := by
  cases hfault.symm.trans hnext
  exact not_counted_takeFault s c

section counted
variable {rd rs1 rs2 rs3 : Reg} {n : Inst} {s t : State}

/-- PID is counted only if all its checks passed (R203). -/
theorem pid_checks_of_counted (h : exec (.pid rd rs1 rs2 rs3 n) s = .next t) (hcount : Counted s t) :
    0 ≤ s.x (rs3 + 1) ∧ 0 ≤ (s.pid n).iclamp.toInt ∧ ErrorFits (s.x rs2 - s.x rs1) := by
  by_cases hpre : s.x (rs3 + 1) < 0 ∨ (s.pid n).iclamp.toInt < 0
  · exact absurd hcount (not_counted_of_faults (execPid_precond rd rs1 rs2 rs3 n s hpre) h)
  · rw [not_or, not_lt, not_lt] at hpre
    obtain ⟨hlimit, hclamp⟩ := hpre
    refine ⟨hlimit, hclamp, ?_⟩
    by_contra herr
    exact not_counted_of_faults (execPid_range rd rs1 rs2 rs3 n s hlimit hclamp herr) h hcount

/-- What a PID command that is counted did (R203). -/
theorem pid_of_counted (h : exec (.pid rd rs1 rs2 rs3 n) s = .next t) (hcount : Counted s t) :
    0 ≤ s.x (rs3 + 1) ∧ 0 ≤ (s.pid n).iclamp.toInt ∧
      t.x rd = controlOutput (s.pid n) (s.x rs2 - s.x rs1) (s.x rs3) (s.x (rs3 + 1)) ∧
      t.x (rd + 1) = s.x rs2 - s.x rs1 ∧ Ticked n (s.x rs2 - s.x rs1) s t := by
  obtain ⟨hlimit, hclamp, herr⟩ := pid_checks_of_counted h hcount
  obtain ⟨u, hu, hout, herror, htick, -⟩ := pid_completes rd rs1 rs2 rs3 n s hlimit hclamp herr
  cases hu.symm.trans h
  exact ⟨hlimit, hclamp, hout, herror, htick⟩

/-- Commits leave the data registers, so a pair written before them reads back after them. -/
theorem State.setPair_performCommits_x (s : State) (r : Reg) {v0 v1 : Int} (commits : List (Inst × PidTick))
    (h0 : -2147483648 ≤ v0 ∧ v0 ≤ 2147483647) (h1 : -2147483648 ≤ v1 ∧ v1 ≤ 2147483647) :
    ((s.setPair r v0 v1).performCommits commits).countCommand.x r = v0 ∧
      ((s.setPair r v0 v1).performCommits commits).countCommand.x (r + 1) = v1 := by
  rw [State.countCommand_x, State.countCommand_x, State.performCommits_x, State.performCommits_x]
  exact s.setPair_x r h0 h1

/-- What a closed-loop EST that is counted did (R230, R231). -/
theorem est_closed_of_counted {v : Bool} (h : exec (.est rd rs1 rs2 ⟨v, true⟩) s = .next t)
    (hcount : Counted s t) :
    FeedbackPrecond s ∧
      t.x rd = controlOutput s.pid0 (s.x rs1 - s.x rs2) 0 s.vsupMv.toInt ∧
      t.x (rd + 1) = controlOutput s.pid1 (s.x (rs1 + 1) - s.x (rs2 + 1)) 0 s.vsupMv.toInt ∧
      Ticked .pid0 (s.x rs1 - s.x rs2) s t ∧ Ticked .pid1 (s.x (rs1 + 1) - s.x (rs2 + 1)) s t := by
  obtain ⟨-, e⟩ | ⟨-, -, e⟩ | ⟨hpre, he0, he1, e⟩ := execEst_closed rd rs1 rs2 v s
  · exact absurd hcount (not_counted_of_faults e h)
  · exact absurd hcount (not_counted_of_faults e h)
  · cases e.symm.trans h
    have ⟨hlimit, hc0, hc1⟩ := hpre
    have hmax := (toInt_bounds s.vsupMv).2
    obtain ⟨hout0, hout1⟩ := s.setPair_performCommits_x rd _
      (controlOutput_fits s.pid0 _ 0 hlimit hmax) (controlOutput_fits s.pid1 _ 0 hlimit hmax)
    exact ⟨hpre, hout0, hout1, ticked_both s _ _ _ _ _ _ hc0 hc1 he0 he1⟩

/-- Closed-loop PIPE is counted only if its checks before RANGE passed (R251, R275). -/
theorem pipe_closed_checks_of_counted (h : exec (.pipe rd rs1 rs2 rs3 ⟨false, true⟩) s = .next t)
    (hcount : Counted s t) : FeedbackPrecond s ∧ s.vmaxMv.toInt ≠ 0 := by
  have hpre : FeedbackPrecond s := by
    by_contra hpre
    exact not_counted_of_faults (execPipe_precond rd rs1 rs2 rs3 s hpre) h hcount
  exact ⟨hpre, fun hdiv =>
    not_counted_of_faults (execPipe_div0 rd rs1 rs2 rs3 _ s hdiv (.inr (.inr hpre))) h hcount⟩

/-- What a closed-loop PIPE that is counted did: EST's ticks from the rotated target, whose outputs it
normalised (R251). -/
theorem pipe_closed_of_counted (h : exec (.pipe rd rs1 rs2 rs3 ⟨false, true⟩) s = .next t)
    (hcount : Counted s t) :
    let c := polarPair (s.angle rs1) (s.x (rs1 + 1))
    FeedbackPrecond s ∧
      t.x rd = normq (controlOutput s.pid0 (c.1 - s.x rs2) 0 s.vsupMv.toInt) s.vmaxMv.toInt ∧
      t.x (rd + 1) = normq (controlOutput s.pid1 (c.2 - s.x (rs2 + 1)) 0 s.vsupMv.toInt) s.vmaxMv.toInt ∧
      Ticked .pid0 (c.1 - s.x rs2) s t ∧ Ticked .pid1 (c.2 - s.x (rs2 + 1)) s t := by
  intro c
  obtain ⟨hpre, hdiv⟩ := pipe_closed_checks_of_counted h hcount
  obtain ⟨-, e⟩ | ⟨he0, he1, e⟩ := execPipe_closed rd rs1 rs2 rs3 s hpre hdiv
  · exact absurd hcount (not_counted_of_faults e h)
  · cases e.symm.trans h
    have ⟨_, hc0, hc1⟩ := hpre
    obtain ⟨hout0, hout1⟩ := s.setPair_performCommits_x rd _ (sat16_fits _) (sat16_fits _)
    exact ⟨hpre, hout0, hout1, ticked_both s _ _ _ _ _ _ hc0 hc1 he0 he1⟩

end counted

/-! ### The output -/

/-- Settles O29: the output is clamped to the limit, and the error is written to both registers. -/
theorem pidOutputWithinLimit : Obligations.PidOutputWithinLimit := by
  unfold Obligations.PidOutputWithinLimit
  intro rd rs1 rs2 rs3 n s t h hcount
  obtain ⟨hlimit, -, hout, herror, -, hprev⟩ := pid_of_counted h hcount
  obtain ⟨hlo, hhi⟩ := controlOutput_bounds (s.pid n) (s.x rs2 - s.x rs1) (s.x rs3) _ hlimit
  rw [hout]
  exact ⟨hlo, hhi, BitVec.eq_of_toInt_eq (herror.trans hprev.symm)⟩

/-- Every term of the sum is 0, and 0 is within the limit (R206). -/
theorem controlOutput_of_zero_gains {p : Pid} {ff limit : Int} (e : Int) (hkp : p.kp = 0) (hki : p.ki = 0)
    (hkd : p.kd = 0) (hff : p.kff = 0 ∨ ff = 0) (hlimit : 0 ≤ limit) : controlOutput p e ff limit = 0 := by
  have hforward : p.kff.toInt * ff = 0 := by
    obtain hkff | hff := hff
    · simp [hkff]
    · simp [hff]
  simp [controlOutput, hkp, hki, hkd, hforward, hlimit]

/-- With zero gains both instances output 0 in closed loop, where there is no feed-forward (R230). -/
theorem feedback_outputs_of_zero_gains {s : State}
    (hzero : ∀ n, (s.pid n).kp = 0 ∧ (s.pid n).ki = 0 ∧ (s.pid n).kd = 0) (hlimit : 0 ≤ s.vsupMv.toInt) :
    (∀ e, controlOutput s.pid0 e 0 s.vsupMv.toInt = 0) ∧
      (∀ e, controlOutput s.pid1 e 0 s.vsupMv.toInt = 0) := by
  obtain ⟨hkp0, hki0, hkd0⟩ := hzero .pid0
  obtain ⟨hkp1, hki1, hkd1⟩ := hzero .pid1
  exact ⟨fun e => controlOutput_of_zero_gains e hkp0 hki0 hkd0 (.inr rfl) hlimit,
    fun e => controlOutput_of_zero_gains e hkp1 hki1 hkd1 (.inr rfl) hlimit⟩

theorem normq_zero (d : Int) : normq 0 d = 0 := by
  rw [normq_eq]
  simp

/-- Settles O28: a counted command's outputs are those of `controlOutput`, and PIPE normalises 0 to 0. -/
theorem zeroGainsGiveZeroOutput : Obligations.ZeroGainsGiveZeroOutput := by
  unfold Obligations.ZeroGainsGiveZeroOutput
  intro s t hcount
  refine ⟨fun rd rs1 rs2 rs3 n hkp hki hkd hff h => ?_, fun rd rs1 rs2 v hzero h => ?_,
    fun rd rs1 rs2 rs3 hzero h => ?_⟩
  · obtain ⟨hlimit, -, hout, -⟩ := pid_of_counted h hcount
    rw [hout, controlOutput_of_zero_gains _ hkp hki hkd hff hlimit]
  · obtain ⟨⟨hlimit, -⟩, hout0, hout1, -⟩ := est_closed_of_counted h hcount
    obtain ⟨hzero0, hzero1⟩ := feedback_outputs_of_zero_gains hzero hlimit
    rw [hout0, hout1, hzero0, hzero1]
    exact ⟨rfl, rfl⟩
  · obtain ⟨⟨hlimit, -⟩, hout0, hout1, -⟩ := pipe_closed_of_counted h hcount
    obtain ⟨hzero0, hzero1⟩ := feedback_outputs_of_zero_gains hzero hlimit
    rw [hout0, hout1, hzero0, hzero1, normq_zero]
    exact ⟨rfl, rfl⟩

/-! ### The integral accumulator -/

/-- Two feedback ticks whose checks passed, one of each PID, seen from either (R230). -/
theorem ticked_of_feedback {s t : State} {e0 e1 : Int} (hpre : FeedbackPrecond s) (h0 : Ticked .pid0 e0 s t)
    (h1 : Ticked .pid1 e1 s t) (n : Inst) : 0 ≤ (s.pid n).iclamp.toInt ∧ ∃ e, Ticked n e s t := by
  obtain ⟨-, hc0, hc1⟩ := hpre
  cases n with
  | pid0 => exact ⟨hc0, e0, h0⟩
  | pid1 => exact ⟨hc1, e1, h1⟩

/-- A counted command made one tick of each of the PIDs it is to tick, whose bound is not negative (R201). -/
theorem ticked_of_counted {i : Instr} {n : Inst} {s t : State} (hn : n ∈ i.ticks) (h : exec i s = .next t)
    (hcount : Counted s t) : 0 ≤ (s.pid n).iclamp.toInt ∧ ∃ e, Ticked n e s t := by
  cases i with
  | pid rd rs1 rs2 rs3 m =>
    obtain rfl : n = m := List.mem_singleton.mp hn
    obtain ⟨-, hclamp, -, -, htick⟩ := pid_of_counted h hcount
    exact ⟨hclamp, _, htick⟩
  | est rd rs1 rs2 mode =>
    obtain ⟨voltage, closed⟩ := mode
    cases closed with
    | false => cases hn
    | true =>
      obtain ⟨hpre, -, -, htick0, htick1⟩ := est_closed_of_counted h hcount
      exact ticked_of_feedback hpre htick0 htick1 n
  | pipe rd rs1 rs2 rs3 mode =>
    obtain ⟨voltage, closed⟩ := mode
    cases voltage with
    | true => cases hn
    | false =>
      cases closed with
      | false => cases hn
      | true =>
        obtain ⟨hpre, -, -, htick0, htick1⟩ := pipe_closed_of_counted h hcount
        exact ticked_of_feedback hpre htick0 htick1 n
  | _ => cases hn

/-- Settles O30: a tick accumulates its error, which is the new PREV. -/
theorem integralStaysWithinClamp : Obligations.IntegralStaysWithinClamp := by
  unfold Obligations.IntegralStaysWithinClamp
  intro i n s t hn h hcount
  obtain ⟨hclamp, e, hinteg, hprev⟩ := ticked_of_counted hn h hcount
  obtain ⟨hlo, hhi⟩ := accumulated_bounds (s.pid n) e hclamp
  rw [hinteg, hprev]
  exact ⟨hlo, hhi, rfl⟩

end Sys2Proof.Machine
end

section
/-! PROOFS. The statements of 42_estimator_selector.md. Closed-loop EST is a tick of each PID instance
(`est_closed_of_counted`), so it is compared with the PID command (`pid_completes`) one instance at a time. -/

namespace Sys2Proof.Machine

/-! ### The EST command -/

theorem encode_est_toNat (rd rs1 rs2 : Reg) (mode : Mode) :
    (encode (.est rd rs1 rs2 mode)).toNat =
      0x28000000 + rd.val * 2 ^ 22 + rs1.val * 2 ^ 18 + rs2.val * 2 ^ 14 +
        (if mode.voltage then 2 ^ 9 else 0) + (if mode.closed then 2 ^ 8 else 0) := by
  rw [encode_toNat_of_fields (i := .est rd rs1 rs2 mode) (opc := 10) (rd := rd.val) (rs1 := rs1.val)
    (rs2 := rs2.val) (rs3 := 0) (inst := 0) rfl rfl rfl rfl rfl (Mode.code_val mode) rfl rfl]
  split <;> split <;> omega

theorem openLoop_eq_saturated (target resistance : Int) :
    openLoop target resistance = saturated ((target * resistance).tdiv 1000) := sat32_saturated _

/-- Open-loop EST, which cannot fault, in the vocabulary of the claims (R230, R231). -/
theorem est_open_completes (rd rs1 rs2 : Reg) (v : Bool) (s : State) :
    ∃ t, exec (.est rd rs1 rs2 ⟨v, false⟩) s = .next t ∧
      t.x rd = saturated ((s.x rs1 * s.resMohm.toInt).tdiv 1000) ∧
      t.x (rd + 1) = saturated ((s.x (rs1 + 1) * s.resMohm.toInt).tdiv 1000) ∧
      Completed [rd, rd + 1] [] s t := by
  rw [← openLoop_eq_saturated, ← openLoop_eq_saturated]
  exact completes_of_setPair (execEst_open rd rs1 rs2 v s) (fits_of_abs_le le_rfl (abs_openLoop_le _ _))
    (fits_of_abs_le le_rfl (abs_openLoop_le _ _))

/-- Closed-loop EST whose checks pass, in the vocabulary of the claims (R230, R231). -/
theorem est_closed_completes (rd rs1 rs2 : Reg) (v : Bool) (s : State) (hpre : FeedbackPrecond s)
    (herr0 : ErrorFits (s.x rs1 - s.x rs2)) (herr1 : ErrorFits (s.x (rs1 + 1) - s.x (rs2 + 1))) :
    ∃ t, exec (.est rd rs1 rs2 ⟨v, true⟩) s = .next t ∧
      t.x rd = controlOutput s.pid0 (s.x rs1 - s.x rs2) 0 s.vsupMv.toInt ∧
      t.x (rd + 1) = controlOutput s.pid1 (s.x (rs1 + 1) - s.x (rs2 + 1)) 0 s.vsupMv.toInt ∧
      Ticked .pid0 (s.x rs1 - s.x rs2) s t ∧ Ticked .pid1 (s.x (rs1 + 1) - s.x (rs2 + 1)) s t ∧
      Completed [rd, rd + 1] [.pid0, .pid1] s t := by
  obtain ⟨hnot, -⟩ | ⟨-, hnot, -⟩ | ⟨-, -, -, e⟩ := execEst_closed rd rs1 rs2 v s
  · exact absurd hpre hnot
  · exact absurd ⟨herr0, herr1⟩ hnot
  · obtain ⟨-, hout0, hout1, htick0, htick1⟩ := est_closed_of_counted e rfl
    exact ⟨_, e, hout0, hout1, htick0, htick1, completed_performCommits s rd _ _ _ _⟩

/-- Closed-loop EST with a negative limit or bound faults PRECOND (R272). -/
theorem est_closed_precond (rd rs1 rs2 : Reg) (v : Bool) (s : State) (hpre : ¬FeedbackPrecond s) :
    exec (.est rd rs1 rs2 ⟨v, true⟩) s = .next (s.takeFault .precond) := by
  obtain ⟨-, e⟩ | ⟨h, -⟩ | ⟨h, -⟩ := execEst_closed rd rs1 rs2 v s
  · exact e
  · exact absurd h hpre
  · exact absurd h hpre

/-- Closed-loop EST with an error that does not fit faults RANGE (R273). -/
theorem est_closed_range (rd rs1 rs2 : Reg) (v : Bool) (s : State) (hpre : FeedbackPrecond s)
    (herr : ¬(ErrorFits (s.x rs1 - s.x rs2) ∧ ErrorFits (s.x (rs1 + 1) - s.x (rs2 + 1)))) :
    exec (.est rd rs1 rs2 ⟨v, true⟩) s = .next (s.takeFault .range) := by
  obtain ⟨h, -⟩ | ⟨-, -, e⟩ | ⟨-, herr0, herr1, -⟩ := execEst_closed rd rs1 rs2 v s
  · exact absurd hpre h
  · exact e
  · exact absurd ⟨herr0, herr1⟩ herr

/-- Settles O18: open loop cannot fault; closed loop checks PRECOND, then RANGE, then ticks. -/
theorem estEstimatesVoltage : Obligations.EstEstimatesVoltage := by
  unfold Obligations.EstEstimatesVoltage
  intro rd rs1 rs2 ⟨v, closed⟩ s
  refine ⟨encode_est_toNat rd rs1 rs2 ⟨v, closed⟩, ?_, ?_, ?_, ?_⟩
  · rintro rfl
    exact est_open_completes rd rs1 rs2 v s
  · rintro rfl
    exact est_closed_completes rd rs1 rs2 v s
  · rintro rfl
    exact est_closed_precond rd rs1 rs2 v s
  · rintro rfl
    exact est_closed_range rd rs1 rs2 v s

/-! ### EST and PID on one instance -/

/-- A command that is counted completed in its frame (R37, R277). -/
theorem completed_of_counted {i : Instr} {s t : State} (h : exec i s = .next t) (hcount : Counted s t) :
    Completed i.dests i.ticks s t := by
  obtain ⟨c, -, e⟩ | ⟨u, e, hframe⟩ := exec_cases i s
  · exact absurd hcount (not_counted_of_faults e h)
  · cases e.symm.trans h
    exact hframe

/-- The error of a tick is the new PREV, so it fits a register. -/
theorem Ticked.errorFits {n : Inst} {e : Int} {s t : State} (h : Ticked n e s t) : ErrorFits e := by
  obtain ⟨-, hprev⟩ := h
  rw [← hprev]
  exact toInt_bounds _

@[ext] theorem Pid.ext {p q : Pid} (kp : p.kp = q.kp) (ki : p.ki = q.ki) (kd : p.kd = q.kd) (kff : p.kff = q.kff)
    (iclamp : p.iclamp = q.iclamp) (integ : p.integ = q.integ) (prev : p.prev = q.prev) : p = q := by
  cases p
  cases q
  exact (Pid.mk.injEq ..).mpr ⟨kp, ki, kd, kff, iclamp, integ, prev⟩

/-- Ticks of equal instances with equal errors leave equal instances (R201, R202). -/
theorem pid_eq_of_ticked {n : Inst} {e : Int} {s t u p : State} {dst dst' : List Reg} {ticks ticks' : List Inst}
    (hsame : u.pid n = s.pid n) (hs : Ticked n e s t) (hu : Ticked n e u p)
    (hst : Completed dst ticks s t) (hup : Completed dst' ticks' u p) : p.pid n = t.pid n := by
  obtain ⟨hinteg, hprev⟩ := hs
  obtain ⟨hinteg', hprev'⟩ := hu
  obtain ⟨hkp, hki, hkd, hkff, hiclamp⟩ := hst.gains n
  obtain ⟨hkp', hki', hkd', hkff', hiclamp'⟩ := hup.gains n
  rw [hsame] at hinteg' hkp' hki' hkd' hkff' hiclamp'
  exact Pid.ext (hkp'.trans hkp.symm) (hki'.trans hki.symm) (hkd'.trans hkd.symm) (hkff'.trans hkff.symm)
    (hiclamp'.trans hiclamp.symm) (BitVec.eq_of_toInt_eq (hinteg'.trans hinteg.symm))
    (BitVec.eq_of_toInt_eq (hprev'.trans hprev.symm))

/-- What a closed-loop EST that is counted did to instance `n`, whose component has number `k` (R230). -/
theorem est_closed_instance_of_counted {rd rs1 rs2 k : Reg} {v : Bool} {n : Inst} {s t : State}
    (hn : (n, k) ∈ [(Inst.pid0, (0 : Reg)), (.pid1, 1)]) (h : exec (.est rd rs1 rs2 ⟨v, true⟩) s = .next t)
    (hcount : Counted s t) :
    0 ≤ s.vsupMv.toInt ∧ 0 ≤ (s.pid n).iclamp.toInt ∧
      t.x (rd + k) = controlOutput (s.pid n) (s.x (rs1 + k) - s.x (rs2 + k)) 0 s.vsupMv.toInt ∧
      Ticked n (s.x (rs1 + k) - s.x (rs2 + k)) s t := by
  obtain ⟨⟨hlimit, hclamp0, hclamp1⟩, hout0, hout1, htick0, htick1⟩ := est_closed_of_counted h hcount
  simp only [List.mem_cons, Prod.mk.injEq, List.not_mem_nil, or_false] at hn
  obtain ⟨rfl, rfl⟩ | ⟨rfl, rfl⟩ := hn
  · rw [Fin.add_zero, Fin.add_zero, Fin.add_zero]
    exact ⟨hlimit, hclamp0, hout0, htick0⟩
  · exact ⟨hlimit, hclamp1, hout1, htick1⟩

/-- Settles O31: EST's checks passed, so PID's pass too, and both make the same tick. -/
theorem closedLoopEstIsTwoPidTicks : Obligations.ClosedLoopEstIsTwoPidTicks := by
  unfold Obligations.ClosedLoopEstIsTwoPidTicks
  intro rd rs1 rs2 qd qa qr qf v n k s t u p hn hest hcount hsame hactual href hforward hlimit hpid
  obtain ⟨hvsup, hclamp, hout, htick⟩ := est_closed_instance_of_counted hn hest hcount
  obtain ⟨p', hp', hout', -, htick', hframe'⟩ := pid_completes qd qa qr qf n u (by rwa [hlimit])
    (by rwa [hsame]) (by rw [hactual, href]; exact Ticked.errorFits htick)
  obtain rfl : p' = p := Host.Outcome.next.inj (hp'.symm.trans hpid)
  rw [hactual, href] at hout' htick'
  rw [hsame, hforward, hlimit] at hout'
  exact ⟨hframe'.count, pid_eq_of_ticked hsame htick htick' (completed_of_counted hest hcount) hframe',
    BitVec.eq_of_toInt_eq (hout'.trans hout.symm)⟩

end Sys2Proof.Machine
end

section
/-! PROOFS. The statements of 43_current_vector_pipeline.md. Each path of PIPE is said once in the vocabulary of
the claims (`pipe_voltage_completes`, `pipe_open_completes`, `pipe_closed_completes` and the faults). The two
equivalences then compare PIPE with what POLAR, EST and NORM are known to do. -/

namespace Sys2Proof.Machine

/-! ### The PIPE command -/

theorem encode_pipe_toNat (rd rs1 rs2 rs3 : Reg) (mode : Mode) :
    (encode (.pipe rd rs1 rs2 rs3 mode)).toNat =
      0x2C000000 + rd.val * 2 ^ 22 + rs1.val * 2 ^ 18 + rs2.val * 2 ^ 14 + rs3.val * 2 ^ 10 +
        (if mode.voltage then 2 ^ 9 else 0) + (if mode.closed then 2 ^ 8 else 0) := by
  rw [encode_toNat_of_fields (i := .pipe rd rs1 rs2 rs3 mode) (opc := 11) (rd := rd.val) (rs1 := rs1.val)
    (rs2 := rs2.val) (rs3 := rs3.val) (inst := 0) rfl rfl rfl rfl rfl (Mode.code_val mode) rfl rfl]
  split <;> split <;> omega

theorem normalised_fits (v d : Int) : -2147483648 ≤ normalised v d ∧ normalised v d ≤ 2147483647 := by
  rw [← normq_normalised]
  exact sat16_fits _

/-- The cartesian pair of a target held in registers, where saturation never acts (R150). -/
theorem polarPair_of_registers (s : State) (ra rm : Reg) :
    polarPair (s.angle ra) (s.x rm) =
      (s.x rm * lsin (tableIndex s.d[ra]) / 2 ^ 15, s.x rm * lcos (tableIndex s.d[ra]) / 2 ^ 15) := by
  rw [polarPair, State.angle_eq_tableIndex, asr_eq, asr_eq,
    sat32_of_bounds (rescaled_bounds (s.x_bounds rm) (lsin_bounds _)),
    sat32_of_bounds (rescaled_bounds (s.x_bounds rm) (lcos_bounds _))]

/-- PIPE in voltage framing with a divisor (R251, MODE[1] = 1). -/
theorem pipe_voltage_completes (rd rs1 rs2 rs3 : Reg) (closed : Bool) (s : State) (hdiv : s.vmaxMv.toInt ≠ 0) :
    ∃ t, exec (.pipe rd rs1 rs2 rs3 ⟨true, closed⟩) s = .next t ∧
      t.x rd = normalised (s.x rs3) s.vmaxMv.toInt ∧
      t.x (rd + 1) = normalised (s.x (rs3 + 1)) s.vmaxMv.toInt ∧ Completed [rd, rd + 1] [] s t := by
  rw [← normq_normalised, ← normq_normalised]
  exact completes_of_setPair (execPipe_voltage rd rs1 rs2 rs3 closed s hdiv) (sat16_fits _) (sat16_fits _)

/-- Settles O19, by whether VMAX_MV is 0. -/
theorem pipeVoltageNormalisesTarget : Obligations.PipeVoltageNormalisesTarget := by
  unfold Obligations.PipeVoltageNormalisesTarget
  rintro rd rs1 rs2 rs3 ⟨voltage, closed⟩ s rfl
  exact ⟨encode_pipe_toNat rd rs1 rs2 rs3 ⟨true, closed⟩, pipe_voltage_completes rd rs1 rs2 rs3 closed s,
    fun hzero => execPipe_div0 rd rs1 rs2 rs3 _ s hzero (.inl rfl)⟩

/-- PIPE in current framing, open loop, with a divisor (R251, MODE = 0b00). -/
theorem pipe_open_completes (rd rs1 rs2 rs3 : Reg) (s : State) (hdiv : s.vmaxMv.toInt ≠ 0) :
    let c0 := s.x (rs1 + 1) * lsin (tableIndex s.d[rs1]) / 2 ^ 15
    let c1 := s.x (rs1 + 1) * lcos (tableIndex s.d[rs1]) / 2 ^ 15
    ∃ t, exec (.pipe rd rs1 rs2 rs3 ⟨false, false⟩) s = .next t ∧
      t.x rd = normalised (saturated ((c0 * s.resMohm.toInt).tdiv 1000)) s.vmaxMv.toInt ∧
      t.x (rd + 1) = normalised (saturated ((c1 * s.resMohm.toInt).tdiv 1000)) s.vmaxMv.toInt ∧
      Completed [rd, rd + 1] [] s t := by
  have hpipe := execPipe_open rd rs1 rs2 rs3 s hdiv
  rw [polarPair_of_registers, openLoop_eq_saturated, openLoop_eq_saturated, normq_normalised,
    normq_normalised] at hpipe
  exact completes_of_setPair hpipe (normalised_fits _ _) (normalised_fits _ _)

/-- Settles O20, by whether VMAX_MV is 0. -/
theorem pipeOpenLoopNormalisesEstimate : Obligations.PipeOpenLoopNormalisesEstimate := by
  unfold Obligations.PipeOpenLoopNormalisesEstimate
  intro rd rs1 rs2 rs3 s
  exact ⟨encode_pipe_toNat rd rs1 rs2 rs3 ⟨false, false⟩, pipe_open_completes rd rs1 rs2 rs3 s,
    fun hzero => execPipe_div0 rd rs1 rs2 rs3 _ s hzero (.inr (.inl rfl))⟩

section closed
variable (rd rs1 rs2 rs3 : Reg) (s : State)

/-- Closed-loop PIPE whose checks pass (R251, MODE = 0b01). -/
theorem pipe_closed_completes (hpre : FeedbackPrecond s) (hdiv : s.vmaxMv.toInt ≠ 0) :
    let e0 := s.x (rs1 + 1) * lsin (tableIndex s.d[rs1]) / 2 ^ 15 - s.x rs2
    let e1 := s.x (rs1 + 1) * lcos (tableIndex s.d[rs1]) / 2 ^ 15 - s.x (rs2 + 1)
    ErrorFits e0 → ErrorFits e1 →
    ∃ t, exec (.pipe rd rs1 rs2 rs3 ⟨false, true⟩) s = .next t ∧
      t.x rd = normalised (controlOutput s.pid0 e0 0 s.vsupMv.toInt) s.vmaxMv.toInt ∧
      t.x (rd + 1) = normalised (controlOutput s.pid1 e1 0 s.vsupMv.toInt) s.vmaxMv.toInt ∧
      Ticked .pid0 e0 s t ∧ Ticked .pid1 e1 s t ∧ Completed [rd, rd + 1] [.pid0, .pid1] s t := by
  intro e0 e1 herr0 herr1
  have hcases := execPipe_closed rd rs1 rs2 rs3 s hpre hdiv
  rw [polarPair_of_registers] at hcases
  obtain ⟨hnot, -⟩ | ⟨-, -, hpipe⟩ := hcases
  · exact absurd ⟨herr0, herr1⟩ hnot
  · obtain ⟨-, hout0, hout1, htick0, htick1⟩ := pipe_closed_of_counted hpipe rfl
    rw [polarPair_of_registers] at hout0 hout1 htick0 htick1
    exact ⟨_, hpipe, hout0.trans (normq_normalised _ _), hout1.trans (normq_normalised _ _), htick0, htick1,
      completed_performCommits s rd _ _ _ _⟩

/-- Closed-loop PIPE with an error that does not fit faults RANGE, after its other checks (R251, R275). -/
theorem pipe_closed_range (hpre : FeedbackPrecond s) (hdiv : s.vmaxMv.toInt ≠ 0)
    (herr : ¬(ErrorFits (s.x (rs1 + 1) * lsin (tableIndex s.d[rs1]) / 2 ^ 15 - s.x rs2) ∧
      ErrorFits (s.x (rs1 + 1) * lcos (tableIndex s.d[rs1]) / 2 ^ 15 - s.x (rs2 + 1)))) :
    exec (.pipe rd rs1 rs2 rs3 ⟨false, true⟩) s = .next (s.takeFault .range) := by
  have hcases := execPipe_closed rd rs1 rs2 rs3 s hpre hdiv
  rw [polarPair_of_registers] at hcases
  obtain ⟨-, hpipe⟩ | ⟨herr0, herr1, -⟩ := hcases
  · exact hpipe
  · exact absurd ⟨herr0, herr1⟩ herr

end closed

/-- Settles O21: PRECOND, then DIV0, then RANGE, then both ticks. -/
theorem pipeClosedLoopTicksBothInstances : Obligations.PipeClosedLoopTicksBothInstances := by
  unfold Obligations.PipeClosedLoopTicksBothInstances
  intro rd rs1 rs2 rs3 s
  refine ⟨encode_pipe_toNat rd rs1 rs2 rs3 ⟨false, true⟩, pipe_closed_completes rd rs1 rs2 rs3 s, ?_, ?_, ?_⟩
  · exact execPipe_precond rd rs1 rs2 rs3 s
  · exact fun hpre hzero => execPipe_div0 rd rs1 rs2 rs3 _ s hzero (.inr (.inr hpre))
  · exact pipe_closed_range rd rs1 rs2 rs3 s

/-! ### PIPE and the commands it stands for -/

/-- A completed command leaves the registers of a PID instance it does not tick. -/
theorem Completed.pid_eq {dst : List Reg} {ticks : List Inst} {s t : State} {n : Inst}
    (h : Completed dst ticks s t) (hn : n ∉ ticks) : t.pid n = s.pid n := by
  obtain ⟨hkp, hki, hkd, hkff, hiclamp⟩ := h.gains n
  obtain ⟨hinteg, hprev⟩ := h.pidState n hn
  exact Pid.ext hkp hki hkd hkff hiclamp hinteg hprev

/-- What EST finds in `u` after POLAR of the target at `rs1` into the scratch pair `tp`: the cartesian target,
and all else it reads as it was in `s`, the measured pair at `rs2` included (R252). -/
structure TargetStaged (tp rs1 rs2 : Reg) (s u : State) : Prop where
  target0 : u.x tp = s.x (rs1 + 1) * lsin (tableIndex s.d[rs1]) / 2 ^ 15
  target1 : u.x (tp + 1) = s.x (rs1 + 1) * lcos (tableIndex s.d[rs1]) / 2 ^ 15
  measured0 : u.x rs2 = s.x rs2
  measured1 : u.x (rs2 + 1) = s.x (rs2 + 1)
  vsupMv : u.vsupMv = s.vsupMv
  resMohm : u.resMohm = s.resMohm
  pid : ∀ n, u.pid n = s.pid n

/-- POLAR stages the target if the scratch pair does not overlap the measured pair. -/
theorem targetStaged_of_polar {tp rs1 rs2 : Reg} {s u : State} (htp0 : tp ∉ [rs2, rs2 + 1])
    (htp1 : tp + 1 ∉ [rs2, rs2 + 1]) (h : exec (.polar tp rs1 (rs1 + 1)) s = .next u) :
    TargetStaged tp rs1 rs2 s u := by
  obtain ⟨-, u', hu', htarget0, htarget1, hframe⟩ := polarWritesCartesianPair tp rs1 (rs1 + 1) s
  cases hu'.symm.trans h
  simp only [List.mem_cons, List.not_mem_nil, or_false, not_or] at htp0 htp1
  obtain ⟨hne00, hne01⟩ := htp0
  obtain ⟨hne10, -⟩ := htp1
  have hmeasured0 : rs2 ∉ [tp, tp + 1] := by simp [Ne.symm hne00, Ne.symm hne10]
  have hmeasured1 : rs2 + 1 ∉ [tp, tp + 1] := by simp [Ne.symm hne01, Ne.symm hne00]
  exact ⟨htarget0, htarget1, congrArg BitVec.toInt (hframe.data _ hmeasured0),
    congrArg BitVec.toInt (hframe.data _ hmeasured1), hframe.vsupMv, hframe.resMohm,
    fun _ => hframe.pid_eq List.not_mem_nil⟩

theorem TargetStaged.feedbackPrecond_iff {tp rs1 rs2 : Reg} {s u : State} (h : TargetStaged tp rs1 rs2 s u) :
    FeedbackPrecond u ↔ FeedbackPrecond s := by
  have hpid0 : u.pid0 = s.pid0 := h.pid .pid0
  have hpid1 : u.pid1 = s.pid1 := h.pid .pid1
  rw [FeedbackPrecond, h.vsupMv, hpid0, hpid1]

section staged
variable {rd rs1 rs2 rs3 tp up : Reg} {s u v : State}

/-- Open loop, EST from the staged target computes the pair that PIPE normalises. -/
theorem pipe_open_normalises_est (hstaged : TargetStaged tp rs1 rs2 s u) (hdiv : s.vmaxMv.toInt ≠ 0)
    (hest : exec (.est up tp rs2 ⟨false, false⟩) u = .next v) :
    Counted u v ∧ ∃ t, exec (.pipe rd rs1 rs2 rs3 ⟨false, false⟩) s = .next t ∧ Counted s t ∧
      t.x rd = normalised (v.x up) s.vmaxMv.toInt ∧ t.x (rd + 1) = normalised (v.x (up + 1)) s.vmaxMv.toInt ∧
      t.pid0 = v.pid0 ∧ t.pid1 = v.pid1 := by
  obtain ⟨v', hv', hest0, hest1, hestFrame⟩ := est_open_completes up tp rs2 false u
  cases hv'.symm.trans hest
  obtain ⟨t, ht, hout0, hout1, hframe⟩ := pipe_open_completes rd rs1 rs2 rs3 s hdiv
  rw [hstaged.target0, hstaged.resMohm] at hest0
  rw [hstaged.target1, hstaged.resMohm] at hest1
  have hpid : ∀ n, t.pid n = v.pid n := fun n => by
    rw [hframe.pid_eq List.not_mem_nil, hestFrame.pid_eq List.not_mem_nil, hstaged.pid]
  refine ⟨hestFrame.count, t, ht, hframe.count, ?_, ?_, hpid .pid0, hpid .pid1⟩
  · rw [hout0, hest0]
  · rw [hout1, hest1]

/-- Closed loop, EST from the staged target makes the ticks whose outputs PIPE normalises. -/
theorem pipe_closed_normalises_est (hstaged : TargetStaged tp rs1 rs2 s u) (hdiv : s.vmaxMv.toInt ≠ 0)
    (hest : exec (.est up tp rs2 ⟨false, true⟩) u = .next v) (hcount : Counted u v) :
    ∃ t, exec (.pipe rd rs1 rs2 rs3 ⟨false, true⟩) s = .next t ∧ Counted s t ∧
      t.x rd = normalised (v.x up) s.vmaxMv.toInt ∧ t.x (rd + 1) = normalised (v.x (up + 1)) s.vmaxMv.toInt ∧
      t.pid0 = v.pid0 ∧ t.pid1 = v.pid1 := by
  obtain ⟨hpre, hest0, hest1, hestTick0, hestTick1⟩ := est_closed_of_counted hest hcount
  rw [hstaged.target0, hstaged.measured0] at hest0 hestTick0
  rw [hstaged.target1, hstaged.measured1] at hest1 hestTick1
  obtain ⟨t, ht, hout0, hout1, htick0, htick1, hframe⟩ := pipe_closed_completes rd rs1 rs2 rs3 s
    (hstaged.feedbackPrecond_iff.mp hpre) hdiv hestTick0.errorFits hestTick1.errorFits
  have hestFrame := completed_of_counted hest hcount
  have hpid0 : u.pid0 = s.pid0 := hstaged.pid .pid0
  have hpid1 : u.pid1 = s.pid1 := hstaged.pid .pid1
  refine ⟨t, ht, hframe.count, ?_, ?_, ?_, ?_⟩
  · rw [hout0, hest0, hpid0, hstaged.vsupMv]
  · rw [hout1, hest1, hpid1, hstaged.vsupMv]
  · exact pid_eq_of_ticked (n := .pid0) hpid0.symm hestTick0 htick0 hestFrame hframe
  · exact pid_eq_of_ticked (n := .pid1) hpid1.symm hestTick1 htick1 hestFrame hframe

/-- Closed loop, PIPE faults with the cause with which EST from the staged target faults (R251, R277). -/
theorem pipe_closed_faults_as_est (hstaged : TargetStaged tp rs1 rs2 s u) (hdiv : s.vmaxMv.toInt ≠ 0)
    (hest : exec (.est up tp rs2 ⟨false, true⟩) u = .next v) (hcount : ¬Counted u v) :
    exec (.pipe rd rs1 rs2 rs3 ⟨false, true⟩) s = .next (faultRecord v.status.cause s) := by
  obtain ⟨hpre, hv⟩ | ⟨hpre, herr, hv⟩ | ⟨-, -, -, hv⟩ := execEst_closed up tp rs2 false u
  · cases hv.symm.trans hest
    exact execPipe_precond rd rs1 rs2 rs3 s (mt hstaged.feedbackPrecond_iff.mpr hpre)
  · cases hv.symm.trans hest
    rw [hstaged.target0, hstaged.target1, hstaged.measured0, hstaged.measured1] at herr
    exact pipe_closed_range rd rs1 rs2 rs3 s (hstaged.feedbackPrecond_iff.mp hpre) hdiv herr
  · cases hv.symm.trans hest
    exact absurd rfl hcount

end staged

/-- Settles O32, by the strategy: open loop neither command faults, closed loop both check and tick alike. -/
theorem pipeIsPolarThenEstThenNorm : Obligations.PipeIsPolarThenEstThenNorm := by
  unfold Obligations.PipeIsPolarThenEstThenNorm
  intro rd rs1 rs2 rs3 tp up closed s s1 s2 htp0 htp1 hdiv hpolar hest
  have hstaged := targetStaged_of_polar htp0 htp1 hpolar
  cases closed with
  | false =>
    obtain ⟨hcount, hpipe⟩ := pipe_open_normalises_est hstaged hdiv hest
    exact ⟨fun _ => hpipe, fun hnot => absurd hcount hnot⟩
  | true =>
    exact ⟨pipe_closed_normalises_est hstaged hdiv hest, pipe_closed_faults_as_est hstaged hdiv hest⟩

/-- The word NORM writes when its divisor register holds VMAX_MV (R132). -/
theorem norm_by_vmax_writes {a r dv : Reg} {s t : State} (hdv : s.d[dv] = s.vmaxMv) (hdiv : s.vmaxMv.toInt ≠ 0)
    (h : exec (.norm a r dv) s = .next t) : t.d[a] = bits32 (normq (s.x r) s.vmaxMv.toInt) := by
  have hx : s.x dv = s.vmaxMv.toInt := congrArg BitVec.toInt hdv
  cases (exec_norm_of_ne_zero a r dv (hx ▸ hdiv)).symm.trans h
  rw [State.countCommand_d, State.setX_d_same, hx]

/-- Settles O33: PIPE and NORM write the same normalisation of each component. -/
theorem pipeVoltageIsTwoNorms : Obligations.PipeVoltageIsTwoNorms := by
  unfold Obligations.PipeVoltageIsTwoNorms
  intro rd rs1 rs2 rs3 a b dv closed s n0 n1 hdv hdiv hnorm0 hnorm1
  rw [norm_by_vmax_writes hdv hdiv hnorm0, norm_by_vmax_writes hdv hdiv hnorm1]
  exact ⟨_, execPipe_voltage rd rs1 rs2 rs3 closed s hdiv, s.setPair_d_same rd _ _⟩

end Sys2Proof.Machine
end

section
/-! PROOFS. The statements of 60_exceptions.md. An ill-formed word is no command. A CMD write follows
one of three equations, for a dropped command, an illegal word and a command; the statement about every step
rests on the fact that nothing but a CMD write sets FAULT. -/

namespace Sys2Proof

/-! ### Ill-formed words (R274) -/

/-- OPC is unassigned, RSV is not 0, or a field that the row of OPC marks 0 is not (R102, R274). -/
def Cmd32.IllFormed (c : Cmd32) : Prop :=
  c.opc = 0 ∨ 0x0C ≤ c.opc.val ∨ c.rsv ≠ 0 ∨
    (c.rs2 ≠ 0 ∧ c.opc.val ∈ [0x01, 0x04]) ∨
    (c.rs3 ≠ 0 ∧ c.opc.val ∈ [0x01, 0x03, 0x04, 0x05, 0x06, 0x07, 0x08, 0x0A]) ∨
    (c.mode ≠ 0 ∧ c.opc.val ∉ [0x0A, 0x0B]) ∨
    (c.inst ≠ 0 ∧ c.opc.val ≠ 0x09)

theorem Cmd32.not_illFormed_fields (i : Instr) : ¬i.fields.IllFormed := by
  cases i <;> simp [Cmd32.IllFormed, Instr.fields]

/-- An ill-formed word is no command: the fields of a command are well formed. -/
theorem decode_illFormed {w : Word} (h : (Cmd32.ofWord w).IllFormed) : ∃ why, decode w = .illegal why := by
  cases hd : decode w with
  | illegal why => exact ⟨why, rfl⟩
  | command i =>
    rw [(decode_eq_command_iff w i).mp hd] at h
    exact absurd h (Cmd32.not_illFormed_fields i)

end Sys2Proof

namespace Sys2Proof.Machine

/-! ### What a CMD write does (R276) -/

theorem runCommand_of_fault (w : Word) {s : State} (hf : s.status.fault = true) :
    runCommand w s = .next { s.setCmd w with reply := .dropped } :=
  if_pos hf

theorem runCommand_of_no_fault (w : Word) {s : State} (hf : s.status.fault = false) :
    runCommand w s = answerWith State.commandReply (runDecoded (decode w) (s.setCmd w)) :=
  if_neg (Bool.eq_false_iff.mp hf)

theorem runCommand_of_command {w : Word} {s : State} {i : Instr} (hf : s.status.fault = false)
    (hd : decode w = .command i) :
    runCommand w s = answerWith State.commandReply (exec i (s.setCmd w)) := by
  rw [runCommand_of_no_fault w hf, hd]
  rfl

theorem runCommand_of_illegal {w : Word} {s : State} {why : Illegal} (hf : s.status.fault = false)
    (hd : decode w = .illegal why) :
    runCommand w s = .next ((s.setCmd w).takeFault .illegal).commandReply := by
  rw [runCommand_of_no_fault w hf, hd]
  rfl

/-- What the host is told of a command that faulted (R280). -/
theorem State.commandReply_takeFault (s : State) (c : Cause) :
    (s.takeFault c).commandReply = { faultRecord c.code s with reply := .faulted c.code } := rfl

/-- Settles O6: a CMD write in a faulted state is a dropped command. -/
theorem commandDroppedWhileFaulted : Obligations.CommandDroppedWhileFaulted := by
  unfold Obligations.CommandDroppedWhileFaulted
  intro s w rest hb hr hf
  rw [step_cmdWrite hb hr, runCommand_of_fault (s := { s with bus := rest }) w hf]
  rfl

/-! ### Commands -/

theorem takeFault_eq_faultRecord (s : State) (c : Cause) : s.takeFault c = faultRecord c.code s := rfl

/-- The codes of the causes a command can raise (R270). -/
theorem Cause.code_of_ne_illegal {c : Cause} (h : c ≠ .illegal) : c.code = 2 ∨ c.code = 3 ∨ c.code = 4 := by
  cases c with
  | illegal => exact absurd rfl h
  | precond => exact .inl rfl
  | div0 => exact .inr (.inl rfl)
  | range => exact .inr (.inr rfl)

/-- Settles O8: what a command can do, with its fault as the fault record of one of the three codes. -/
theorem commandsCompleteOrFaultPrecisely : Obligations.CommandsCompleteOrFaultPrecisely := by
  unfold Obligations.CommandsCompleteOrFaultPrecisely
  intro i s
  obtain ⟨c, hc, e⟩ | hcompletes := exec_cases i s
  · exact .inl ⟨c.code, c.code_of_ne_illegal hc, takeFault_eq_faultRecord s c ▸ e⟩
  · exact .inr hcompletes

theorem exec_answers_next (i : Instr) (s : State) : ∃ t, exec i s = .next t := by
  obtain ⟨c, -, e⟩ | ⟨t, e, -⟩ := exec_cases i s
  · exact ⟨_, e⟩
  · exact ⟨t, e⟩

/-- Settles O5: the command answers a next state, and the step adds the reply to it. -/
theorem stepRunsDecodedCommand : Obligations.StepRunsDecodedCommand := by
  unfold Obligations.StepRunsDecodedCommand
  intro s w rest i hb hr hf hd
  obtain ⟨t, ht⟩ := exec_answers_next i (State.setCmd { s with bus := rest } w)
  refine ⟨t, ht, ?_⟩
  rw [step_cmdWrite hb hr, runCommand_of_command (s := { s with bus := rest }) hf hd, ht]
  rfl

/-! ### Illegal words (R274) -/

/-- Settles O7: the word is no command, and what is no command takes the fault ILLEGAL. -/
theorem illegalWordFaults : Obligations.IllegalWordFaults := by
  unfold Obligations.IllegalWordFaults
  intro s w rest hb hr hf hill
  obtain ⟨why, hd⟩ := decode_illFormed hill
  rw [step_cmdWrite hb hr, runCommand_of_illegal (s := { s with bus := rest }) hf hd,
    State.commandReply_takeFault]
  rfl

/-! ### What sets FAULT (R276, R277) -/

theorem State.idle_no_fault {s : State} (hf : s.status.fault = false) : s.idle.status.fault = false := by
  cases hr : s.inReset with
  | true => rw [State.idle_of_inReset hr]; rfl
  | false => rw [State.idle_of_not_inReset hr]; exact hf

theorem State.driveReset_no_fault {s : State} (hf : s.status.fault = false) (level : Bool) :
    (s.driveReset level).status.fault = false := by
  unfold State.driveReset
  split
  · rfl
  · exact hf

theorem State.windowStore_no_fault {s : State} (hf : s.status.fault = false) (r : WindowReg) (v : Word) :
    (s.windowStore r v).status.fault = false := by
  obtain e | e := s.windowStore_status r v <;> rw [e]
  · exact hf
  · rfl

/-- Only a CMD write turns FAULT from 0 to 1. -/
theorem cmdWrite_of_fault_raised {s t : State} (hstep : step s = .next t) (hf : s.status.fault = false)
    (hft : t.status.fault = true) :
    ∃ w rest, s.bus = .write 0x040 4 w :: rest ∧ runCommand w { s with bus := rest } = .next t := by
  have hraised : t.status.fault ≠ false := by simp [hft]
  obtain ⟨-, rfl⟩ | ⟨level, rest, -, rfl⟩ | ⟨_, _, _, rest, -, -, -, rfl⟩ |
    ⟨_, _, v, r, rest, -, -, -, -, rfl⟩ | ⟨w, rest, hb, -, hrun⟩ := step_cases hstep
  · exact absurd (State.idle_no_fault hf) hraised
  · exact absurd (State.driveReset_no_fault (s := { s with bus := rest }) hf level) hraised
  · exact absurd hf hraised
  · exact absurd (State.windowStore_no_fault (s := { s with bus := rest }) hf r v) hraised
  · exact ⟨w, rest, hb, hrun⟩

/-- A command that sets FAULT leaves the fault record of a cause, and the reply that says so. -/
theorem eq_faultRecord_of_fault_raised {w : Word} {s t : State} (hrun : runCommand w s = .next t)
    (hf : s.status.fault = false) (hft : t.status.fault = true) :
    ∃ c : Cause, t = { faultRecord c.code (s.setCmd w) with reply := .faulted c.code } := by
  obtain ⟨hdrop, -⟩ | ⟨-, c, e⟩ | ⟨-, i, u, -, hframe, e⟩ := runCommand_outcomes w s
  · exact absurd hdrop (Bool.eq_false_iff.mp hf)
  · exact ⟨c, Host.Outcome.next.inj (hrun.symm.trans e)⟩
  · obtain rfl := Host.Outcome.next.inj (hrun.symm.trans e)
    exact absurd (hframe.fault.trans hf) (by simpa using hft)

/-- Settles O38: the step was a CMD write, and its command left only the fault record. -/
theorem faultsArePrecise : Obligations.FaultsArePrecise := by
  unfold Obligations.FaultsArePrecise
  intro s t hstep hf hft
  obtain ⟨w, rest, hb, hrun⟩ := cmdWrite_of_fault_raised hstep hf hft
  obtain ⟨c, rfl⟩ := eq_faultRecord_of_fault_raised hrun hf hft
  obtain ⟨hle, hne⟩ := c.code_bounds
  have hpos : 1 ≤ c.code.toNat := by bv_omega
  exact ⟨w, rest, hb, hpos, hle, rfl⟩

end Sys2Proof.Machine
end

section
/-! PROOFS. The statements of 70_reset_and_hazards.md. The reset input and an idle step follow the equations of
`State.driveReset` and `State.idle`. At the reset values every data register, limit, bound, gain and divisor is 0
(`State.reset_x`, `State.reset_pid`), so each command's own lemma says what it does there. -/

namespace Sys2Proof.Machine

/-! ### The reset input (R300 to R302) -/

/-- Settles O43: the reset input acts if it is driven high or was high, and a held reset is an idle step. -/
theorem resetLineResetsEverything : Obligations.ResetLineResetsEverything := by
  unfold Obligations.ResetLineResetsEverything
  intro s level rest
  refine ⟨fun hb hacts => ?_, fun hb hr => ?_, ?_⟩
  · rw [step_resetLine hb, State.driveReset_of_acts (s := { s with bus := rest }) hacts]
    rfl
  · rw [step_idle hb, State.idle_of_inReset hr, State.resetRegisters, hr, hb]
    rfl
  · rintro hb rfl hr
    rw [step_resetLine hb, State.driveReset_low_of_low (s := { s with bus := rest }) hr]

/-- Settles O44: the host port looks at the reset input before it looks at the access. -/
theorem accessInResetIsRefused : Obligations.AccessInResetIsRefused := by
  unfold Obligations.AccessInResetIsRefused
  intro s off bytes v rest hr
  refine ⟨fun hb => ?_, fun hb => ?_⟩ <;> rw [step, hb]
  · exact if_pos hr
  · exact if_pos hr

/-- Settles O46: the idle step outside reset. -/
theorem idleUntilTheHostActs : Obligations.IdleUntilTheHostActs := by
  unfold Obligations.IdleUntilTheHostActs
  intro s hb hr
  rw [step_idle hb, State.idle_of_not_inReset hr]

/-! ### Commands at the reset values (R303) -/

/-- A command that is counted did not fault PRECOND. -/
theorem ne_precond_of_counted {o : Host.Outcome State Fault Refusal} {s t : State} (ho : o = .next t)
    (hcount : Counted s t) : o ≠ .next (faultRecord 2 s) :=
  fun hfault => not_counted_of_faults (c := .precond) hfault ho hcount

theorem div0_ne_precond (s : State) :
    (.next (faultRecord 3 s) : Host.Outcome State Fault Refusal) ≠ .next (faultRecord 2 s) :=
  fun h => absurd (show (3 : BitVec 4) = 2 from congrArg (·.status.cause) (Host.Outcome.next.inj h)) (by decide)

/-- With every gain 0 an instance outputs 0 (R206). -/
theorem controlOutput_reset (e ff : Int) : controlOutput Pid.reset e ff 0 = 0 :=
  controlOutput_of_zero_gains e rfl rfl rfl (.inl rfl) le_rfl

section resetValues
/-! The state of R303: the reset values, with any word `w` in CMD. -/

variable (w : Word) (rd rs1 rs2 rs3 : Reg)

theorem State.reset_x (r : Reg) : (State.reset.setCmd w).x r = 0 := by
  simp [State.x_eq, State.reset]

theorem State.reset_pid (n : Inst) : (State.reset.setCmd w).pid n = Pid.reset := by
  cases n <;> rfl

theorem State.reset_feedbackPrecond : FeedbackPrecond (State.reset.setCmd w) :=
  ⟨le_rfl, le_rfl, le_rfl⟩

theorem State.reset_errorFits (r q : Reg) :
    ErrorFits ((State.reset.setCmd w).x r - (State.reset.setCmd w).x q) := by
  rw [State.reset_x, State.reset_x]
  decide

/-- With RES_MOHM 0 the open-loop estimate is 0 (R230). -/
theorem openLoop_reset (target : Int) :
    saturated ((target * (State.reset.setCmd w).resMohm.toInt).tdiv 1000) = 0 := by
  simp [State.reset, saturated]

theorem scale_reset :
    exec (.scale rd rs1 rs2 rs3) (State.reset.setCmd w) = .next (faultRecord 3 (State.reset.setCmd w)) :=
  exec_scale_of_eq_zero rd rs1 rs2 rs3 (State.reset_x w rs3)

theorem norm_reset :
    exec (.norm rd rs1 rs2) (State.reset.setCmd w) = .next (faultRecord 3 (State.reset.setCmd w)) :=
  exec_norm_of_eq_zero rd rs1 rs2 (State.reset_x w rs2)

/-- PIPE finds VMAX_MV 0, and PRECOND, which would come before DIV0, does not hold (R275). -/
theorem pipe_reset (mode : Mode) :
    exec (.pipe rd rs1 rs2 rs3 mode) (State.reset.setCmd w) = .next (faultRecord 3 (State.reset.setCmd w)) :=
  execPipe_div0 rd rs1 rs2 rs3 mode _ rfl (.inr (.inr (State.reset_feedbackPrecond w)))

/-- PID outputs 0, since its gains are 0. -/
theorem pid_reset (n : Inst) :
    ∃ t, exec (.pid rd rs1 rs2 rs3 n) (State.reset.setCmd w) = .next t ∧
      Completed [rd, rd + 1] [n] (State.reset.setCmd w) t ∧ t.x rd = 0 := by
  have hlimit : 0 ≤ (State.reset.setCmd w).x (rs3 + 1) := (State.reset_x w (rs3 + 1)).ge
  have hclamp : 0 ≤ ((State.reset.setCmd w).pid n).iclamp.toInt := by
    rw [State.reset_pid]
    exact le_rfl
  obtain ⟨t, ht, hout, -, -, hframe⟩ :=
    pid_completes rd rs1 rs2 rs3 n _ hlimit hclamp (State.reset_errorFits w rs2 rs1)
  rw [State.reset_pid, State.reset_x w (rs3 + 1), controlOutput_reset] at hout
  exact ⟨t, ht, hframe, hout⟩

/-- EST outputs 0: open loop since RES_MOHM is 0, closed loop since the gains are. -/
theorem est_reset (mode : Mode) :
    ∃ t, exec (.est rd rs1 rs2 mode) (State.reset.setCmd w) = .next t ∧
      Completed [rd, rd + 1] (Instr.est rd rs1 rs2 mode).ticks (State.reset.setCmd w) t ∧
      t.x rd = 0 ∧ t.x (rd + 1) = 0 := by
  obtain ⟨v, closed⟩ := mode
  cases closed with
  | false =>
    obtain ⟨t, ht, hout0, hout1, hframe⟩ := est_open_completes rd rs1 rs2 v (State.reset.setCmd w)
    exact ⟨t, ht, hframe, hout0.trans (openLoop_reset w _), hout1.trans (openLoop_reset w _)⟩
  | true =>
    obtain ⟨t, ht, hout0, hout1, -, -, hframe⟩ := est_closed_completes rd rs1 rs2 v _
      (State.reset_feedbackPrecond w) (State.reset_errorFits w _ _) (State.reset_errorFits w _ _)
    exact ⟨t, ht, hframe, hout0.trans (controlOutput_reset _ 0), hout1.trans (controlOutput_reset _ 0)⟩

/-- A command whose checks can fail faults DIV0 or passes them all; the others cannot fault. -/
theorem no_precond_reset (i : Instr) :
    exec i (State.reset.setCmd w) ≠ .next (faultRecord 2 (State.reset.setCmd w)) := by
  cases i with
  | sat16 | sincos | polar | vrot | clarke | svc => exact ne_precond_of_counted rfl rfl
  | scale rd rs1 rs2 rs3 => exact scale_reset w rd rs1 rs2 rs3 ▸ div0_ne_precond _
  | norm rd rs1 rs2 => exact norm_reset w rd rs1 rs2 ▸ div0_ne_precond _
  | pipe rd rs1 rs2 rs3 mode => exact pipe_reset w rd rs1 rs2 rs3 mode ▸ div0_ne_precond _
  | pid rd rs1 rs2 rs3 n =>
    obtain ⟨t, ht, hframe, -⟩ := pid_reset w rd rs1 rs2 rs3 n
    exact ne_precond_of_counted ht hframe.count
  | est rd rs1 rs2 mode =>
    obtain ⟨t, ht, hframe, -⟩ := est_reset w rd rs1 rs2 mode
    exact ne_precond_of_counted ht hframe.count

end resetValues

/-- Settles O45: what each command's lemma says at the reset values. -/
theorem commandsAtResetValues : Obligations.CommandsAtResetValues := by
  unfold Obligations.CommandsAtResetValues
  intro w
  exact ⟨pipe_reset w, fun rd rs1 rs2 rs3 => ⟨norm_reset w rd rs1 rs2, scale_reset w rd rs1 rs2 rs3⟩,
    est_reset w, pid_reset w, no_precond_reset w⟩

end Sys2Proof.Machine
end

section
/-! PROOFS. The words that the spec writes out (95_test_vectors.md). A word decodes to a command exactly when it
is the word of that command, so each is compared with the word R100 and R102 make of the command named. -/

namespace Sys2Proof

theorem decode_eq_command_iff_encode (w : Word) (i : Instr) : decode w = .command i ↔ encode i = w :=
  ⟨decodeThenEncodeIsIdentity w i, fun h => h ▸ encodeThenDecodeIsIdentity i⟩

/-- Settles O4: every word is that of the command the spec names beside it. -/
theorem wordsOfTheSpecDecode : Obligations.WordsOfTheSpecDecode := by
  unfold Obligations.WordsOfTheSpecDecode
  simp only [decode_eq_command_iff_encode]
  decide

end Sys2Proof
end
